-- ==== Sys2Proof/Word.lean ====
section
/-! DEFINITION. The word types of the block: the widths that R7 of `spec/00_scope.md` fixes. -/

namespace Sys2Proof

/-- A 64-bit word, the unit of every operand (R7, R11). -/
abbrev W64 := BitVec 64

/-- A modulus, a raw residue value, an exponent: four 64-bit words, word 0 least significant (R7, R11). -/
abbrev W256 := BitVec 256

/-- A reciprocal, and the data output `DOUT`: five 64-bit words (R7, R13). -/
abbrev W320 := BitVec 320

/-- A 512-bit product, and the data input `DIN`: eight 64-bit words (R7, R13). -/
abbrev W512 := BitVec 512

/-- A command word (R67). -/
abbrev CmdWord := BitVec 32

/-- A residue register index as a command word carries it: 5 bits, unsigned, used as it stands (R67, R69). -/
abbrev RegIx := BitVec 5

/-- A modulus slot index or an exponentiation-base slot index: 4 bits, unsigned, used as it stands (R67, R69). -/
abbrev SlotIx := BitVec 4

end Sys2Proof
end

