-- ==== Sys2Proof/Syntax.lean ====
section
/-! DEFINITION. The 24 commands of the opcode map, R70 of `spec/30_encoding.md`: one constructor per row, operands in the
order of the row's "Fields" column. `rd` and `rs` are residue registers, `ms` a modulus slot, `es` an exponentiation-base
slot. Wide operands are not part of the word: they travel in `DIN` (R69). -/

namespace Sys2Proof

/-- A command of the block (R70). The operand types hold exactly the field widths of R67, so every term has an encoding. -/
inductive Instr where
  /-- NOP: nothing (R197). -/
  | nop
  /-- CLRERR: clear the error record (R198). -/
  | clrerr
  /-- MODSET: construct a modulus in slot `ms` from `DIN[0..3]` (R96). -/
  | modset (ms : SlotIx)
  /-- MODGET: read out `M[ms].m` (R97). -/
  | modget (ms : SlotIx)
  /-- MUGET: read out the reciprocal `M[ms].mu` (R98). -/
  | muget (ms : SlotIx)
  /-- MMU0GET: read out `M[ms].mmu0` (R99). -/
  | mmu0get (ms : SlotIx)
  /-- MMU1GET: read out `M[ms].mmu1` (R100). -/
  | mmu1get (ms : SlotIx)
  /-- RSET: `R[rd]` from the words `DIN[0..3]`, bound to `ms` (R187). -/
  | rset (rd : RegIx) (ms : SlotIx)
  /-- RGET: canonicalise `R[rd]` and read it out (R188). -/
  | rget (rd : RegIx)
  /-- RCOPY: copy `R[rs]` to `R[rd]` (R189). -/
  | rcopy (rd rs : RegIx)
  /-- RED4: canonicalise `R[rd]` in place (R116). -/
  | red4 (rd : RegIx)
  /-- RED8: reduce the 512-bit `DIN` modulo `M[ms]` into `R[rd]` (R117). -/
  | red8 (rd : RegIx) (ms : SlotIx)
  /-- ADD: self plus other (R128). -/
  | add (rd rs : RegIx)
  /-- SUB: self minus other (R129). -/
  | sub (rd rs : RegIx)
  /-- NEG: minus self (R130). -/
  | neg (rd : RegIx)
  /-- DBL: twice self (R131). -/
  | dbl (rd : RegIx)
  /-- MUL: self times other (R142). -/
  | mul (rd rs : RegIx)
  /-- SQR: self squared (R143). -/
  | sqr (rd : RegIx)
  /-- EQ: canonicalise both, `FLAG` is equality (R180). -/
  | eq (rd rs : RegIx)
  /-- NEQ: as EQ with the complement in `FLAG` (R181). -/
  | neq (rd rs : RegIx)
  /-- INV: self inverted, `FLAG` is success (R151). -/
  | inv (rd : RegIx)
  /-- EXP: self to the power `DIN[0..3]` (R164). -/
  | exp (rd : RegIx)
  /-- EXPB: build the tables of base `R[rs]` in `E[es]` (R167). -/
  | expb (es : SlotIx) (rs : RegIx)
  /-- EXPP: `R[rd]` from the tables `E[es]` and the exponent `DIN[0..3]` (R169). -/
  | expp (rd : RegIx) (es : SlotIx)
deriving DecidableEq, Repr

end Sys2Proof
end

