-- ==== Sys2Proof/Decode.lean ====
section
/-! DEFINITION. Command words: fields (R67), formats (R68), the opcode map (R70), decoding (R71, R72), and after them the
encoder (R67) and the host's entry point. `spec/30_encoding.md`. -/

namespace Sys2Proof

/-- `v[hi:lo]` (R11). -/
def bitField (v hi lo : Nat) : Nat := v / 2 ^ lo % 2 ^ (hi - lo + 1)

/-- The six fields of a command word (R67). -/
structure CmdFields where
  op : BitVec 8
  rd : RegIx
  rs : RegIx
  ms : SlotIx
  es : SlotIx
  zero : BitVec 6
deriving DecidableEq, Repr

/-- `op = word[31:24]; rd = word[23:19]; rs = word[18:14]; ms = word[13:10]; es = word[9:6]; zero = word[5:0]` (R67). -/
def cmdFields (w : CmdWord) : CmdFields :=
  { op := BitVec.ofNat 8 (bitField w.toNat 31 24)
    rd := BitVec.ofNat 5 (bitField w.toNat 23 19)
    rs := BitVec.ofNat 5 (bitField w.toNat 18 14)
    ms := BitVec.ofNat 4 (bitField w.toNat 13 10)
    es := BitVec.ofNat 4 (bitField w.toNat 9 6)
    zero := BitVec.ofNat 6 (bitField w.toNat 5 0) }

/-- `word = op*2^24 + rd*2^19 + rs*2^14 + ms*2^10 + es*2^6 + zero` (R67). -/
def joinFields (f : CmdFields) : CmdWord :=
  BitVec.ofNat 32
    (f.op.toNat * 2 ^ 24 + f.rd.toNat * 2 ^ 19 + f.rs.toNat * 2 ^ 14 + f.ms.toNat * 2 ^ 10 + f.es.toNat * 2 ^ 6
      + f.zero.toNat)

/-- Why a word is illegal (R72). Both kinds are answered with `E_ILLEGAL` (R204). -/
inductive DecodeError where
  /-- `op` is not one of the 24 values of R70. -/
  | unassignedOpcode (op : BitVec 8)
  /-- `zero` or an index field the command does not use is not 0. -/
  | unusedFieldNotZero (op : BitVec 8)
deriving DecidableEq, Repr

/-- Accept the command if the fields its format does not use are all 0 (R68, R72). -/
def acceptIf (f : CmdFields) (unusedAreZero : Bool) (i : Instr) : Except DecodeError Instr :=
  if unusedAreZero then .ok i else .error (.unusedFieldNotZero f.op)

/-- Format N: no field used (R68). -/
def formN (f : CmdFields) (i : Instr) : Except DecodeError Instr :=
  acceptIf f (f.rd == 0 && f.rs == 0 && f.ms == 0 && f.es == 0 && f.zero == 0) i

/-- Format M: `ms` (R68). -/
def formM (f : CmdFields) (mk : SlotIx → Instr) : Except DecodeError Instr :=
  acceptIf f (f.rd == 0 && f.rs == 0 && f.es == 0 && f.zero == 0) (mk f.ms)

/-- Format D: `rd` (R68). -/
def formD (f : CmdFields) (mk : RegIx → Instr) : Except DecodeError Instr :=
  acceptIf f (f.rs == 0 && f.ms == 0 && f.es == 0 && f.zero == 0) (mk f.rd)

/-- Format DS: `rd`, `rs` (R68). -/
def formDS (f : CmdFields) (mk : RegIx → RegIx → Instr) : Except DecodeError Instr :=
  acceptIf f (f.ms == 0 && f.es == 0 && f.zero == 0) (mk f.rd f.rs)

/-- Format DM: `rd`, `ms` (R68). -/
def formDM (f : CmdFields) (mk : RegIx → SlotIx → Instr) : Except DecodeError Instr :=
  acceptIf f (f.rs == 0 && f.es == 0 && f.zero == 0) (mk f.rd f.ms)

/-- Format ES: `es`, `rs` (R68). -/
def formES (f : CmdFields) (mk : SlotIx → RegIx → Instr) : Except DecodeError Instr :=
  acceptIf f (f.rd == 0 && f.ms == 0 && f.zero == 0) (mk f.es f.rs)

/-- Format DE: `rd`, `es` (R68). -/
def formDE (f : CmdFields) (mk : RegIx → SlotIx → Instr) : Except DecodeError Instr :=
  acceptIf f (f.rs == 0 && f.ms == 0 && f.zero == 0) (mk f.rd f.es)

/-- Decoding by fields: look up `op` in the opcode map (R70), then check the unused fields (R71). -/
def decodeFields (f : CmdFields) : Except DecodeError Instr :=
  match f.op.toNat with
  | 0x00 => formN f .nop
  | 0x01 => formN f .clrerr
  | 0x10 => formM f .modset
  | 0x11 => formM f .modget
  | 0x12 => formM f .muget
  | 0x13 => formM f .mmu0get
  | 0x14 => formM f .mmu1get
  | 0x20 => formDM f .rset
  | 0x21 => formD f .rget
  | 0x22 => formDS f .rcopy
  | 0x23 => formD f .red4
  | 0x24 => formDM f .red8
  | 0x30 => formDS f .add
  | 0x31 => formDS f .sub
  | 0x32 => formD f .neg
  | 0x33 => formD f .dbl
  | 0x34 => formDS f .mul
  | 0x35 => formD f .sqr
  | 0x38 => formDS f .eq
  | 0x39 => formDS f .neq
  | 0x40 => formD f .inv
  | 0x50 => formD f .exp
  | 0x51 => formES f .expb
  | 0x52 => formDE f .expp
  | _ => .error (.unassignedOpcode f.op)

/-- "Decoding is total: every 32-bit word either matches exactly one row of rule R70 or is illegal" (R71). It never looks at
an earlier command or at a mode (R73), nor at the storage sizes (R71). -/
def decode (w : CmdWord) : Except DecodeError Instr := decodeFields (cmdFields w)

/-- The opcode of a command (R70). -/
def opcode (i : Instr) : BitVec 8 :=
  match i with
  | .nop => 0x00
  | .clrerr => 0x01
  | .modset _ => 0x10
  | .modget _ => 0x11
  | .muget _ => 0x12
  | .mmu0get _ => 0x13
  | .mmu1get _ => 0x14
  | .rset _ _ => 0x20
  | .rget _ => 0x21
  | .rcopy _ _ => 0x22
  | .red4 _ => 0x23
  | .red8 _ _ => 0x24
  | .add _ _ => 0x30
  | .sub _ _ => 0x31
  | .neg _ => 0x32
  | .dbl _ => 0x33
  | .mul _ _ => 0x34
  | .sqr _ => 0x35
  | .eq _ _ => 0x38
  | .neq _ _ => 0x39
  | .inv _ => 0x40
  | .exp _ => 0x50
  | .expb _ _ => 0x51
  | .expp _ _ => 0x52

/-- A word with only an opcode (format N, R68). -/
def opOnly (op : BitVec 8) : CmdFields := { op := op, rd := 0, rs := 0, ms := 0, es := 0, zero := 0 }

/-- The fields of a command: its opcode, the indices its format uses, 0 in every other field (R68). -/
def fieldsOf (i : Instr) : CmdFields :=
  match i with
  | .nop => opOnly (opcode i)
  | .clrerr => opOnly (opcode i)
  | .modset ms => { opOnly (opcode i) with ms := ms }
  | .modget ms => { opOnly (opcode i) with ms := ms }
  | .muget ms => { opOnly (opcode i) with ms := ms }
  | .mmu0get ms => { opOnly (opcode i) with ms := ms }
  | .mmu1get ms => { opOnly (opcode i) with ms := ms }
  | .rset rd ms => { opOnly (opcode i) with rd := rd, ms := ms }
  | .rget rd => { opOnly (opcode i) with rd := rd }
  | .rcopy rd rs => { opOnly (opcode i) with rd := rd, rs := rs }
  | .red4 rd => { opOnly (opcode i) with rd := rd }
  | .red8 rd ms => { opOnly (opcode i) with rd := rd, ms := ms }
  | .add rd rs => { opOnly (opcode i) with rd := rd, rs := rs }
  | .sub rd rs => { opOnly (opcode i) with rd := rd, rs := rs }
  | .neg rd => { opOnly (opcode i) with rd := rd }
  | .dbl rd => { opOnly (opcode i) with rd := rd }
  | .mul rd rs => { opOnly (opcode i) with rd := rd, rs := rs }
  | .sqr rd => { opOnly (opcode i) with rd := rd }
  | .eq rd rs => { opOnly (opcode i) with rd := rd, rs := rs }
  | .neq rd rs => { opOnly (opcode i) with rd := rd, rs := rs }
  | .inv rd => { opOnly (opcode i) with rd := rd }
  | .exp rd => { opOnly (opcode i) with rd := rd }
  | .expb es rs => { opOnly (opcode i) with es := es, rs := rs }
  | .expp rd es => { opOnly (opcode i) with rd := rd, es := es }

/-- The command word of a command (R67, R68). -/
def encode (i : Instr) : CmdWord := joinFields (fieldsOf i)

/-- The instruction this decoder reads from an instruction of `nbits` bits `w` (bit 0 least significant), every bit above
`nbits` being 0. A command word is one 32-bit number on `cmd_word` (R65, R67), so there is no byte order to apply (R54). -/
def decodeTableWord (nbits w : Nat) : Option Instr :=
  if 32 < nbits then none else (decode (BitVec.ofNat 32 (w % 2 ^ nbits))).toOption

end Sys2Proof
end

