-- ==== Sys2Proof/Config.lean ====
section
/-! DEFINITION. What an implementation of the block fixes: the three storage sizes of R8 of `spec/00_scope.md`.
There is no free value: the spec leaves no result open (entry 10 of the log says what holds of other implementations). -/

namespace Sys2Proof

/-- The storage sizes the model takes as arguments (R8). `State` carries them as the lengths of its banks (entry 1). -/
structure Params where
  /-- number of residue registers -/
  nres : Nat
  /-- number of modulus slots -/
  nmod : Nat
  /-- number of exponentiation-base slots -/
  nexp : Nat
deriving DecidableEq, Repr

/-- "the default each takes for this hardware" (R8). -/
def Config.default : Params := { nres := 16, nmod := 4, nexp := 2 }

/-- The legal ranges of R8. -/
abbrev Params.Legal (p : Params) : Prop :=
  (1 ≤ p.nres ∧ p.nres ≤ 32) ∧ (1 ≤ p.nmod ∧ p.nmod ≤ 16) ∧ p.nexp ≤ 16

end Sys2Proof
end

