-- ==== Sys2Proof/Machine/State.lean ====
section
/-! DEFINITION. The state of the block (R20 to R38 of `spec/10_state.md`), its response and status pins (R65), and what the
host still has to issue. Plain data. An element with valid bit 0 is `none`: "A model should give an invalid element no value
at all" (R36, entry 2). -/

namespace Sys2Proof.Machine

/-- A valid modulus slot (R21). -/
structure Modulus where
  /-- "the modulus in little-endian 64-bit words" -/
  m : W256
  /-- "the 320-bit reciprocal" -/
  mu : W320
  /-- "the greatest multiple of m strictly less than 2^256" -/
  mmu0 : W256
  /-- "`mmu0 + m` truncated to 256 bits" -/
  mmu1 : W256
deriving DecidableEq, Repr

/-- A valid residue register (R24). `r` is the raw value: any 256-bit pattern is legal, it need not be below the modulus (R25). -/
structure Residue where
  /-- index of the modulus slot the residue is bound to -/
  tag : SlotIx
  /-- the raw value -/
  r : W256
deriving DecidableEq, Repr

/-- A valid exponentiation-base slot, in the two-table form (R29). -/
structure ExpBase where
  /-- modulus slot of the base -/
  tag : SlotIx
  /-- low table -/
  l : Vector W256 16
  /-- high table, "offset by 32 squarings" -/
  h : Vector W256 16
deriving DecidableEq, Repr

/-- The status register (R33). Its fields drive the pins `status_flag`, `status_err`, `status_errcmd` (R65). -/
structure Status where
  /-- result of the last `EQ`, `NEQ` or `INV` that completed (R32) -/
  flag : Bool
  /-- code of the first fault since it was last cleared, 0 for none (R211) -/
  err : BitVec 4
  /-- command word of that fault (R211) -/
  errcmd : CmdWord
deriving DecidableEq, Repr

/-- The response pins (R65, R66, R74): valid in the one cycle with `rsp_valid = 1`, all 0 outside it. -/
structure Response where
  /-- `rsp_valid` -/
  valid : Bool
  /-- `rsp_err` -/
  err : BitVec 4
  /-- `rsp_flag` -/
  flag : Bool
  /-- `rsp_dout` -/
  dout : W320
deriving DecidableEq, Repr

/-- The moves of the host that change the block: "apply reset, issue a command with its `DIN`" (R52). -/
inductive HostMove where
  /-- apply reset (R230) -/
  | reset
  /-- issue a command word with its data input -/
  | issue (word : CmdWord) (din : W512)
deriving DecidableEq, Repr

/-- The machine: the block's architectural state `M`, `R`, `E`, `STATUS` (R20), its response pins (R65), the command it
accepted last, and the host's side. The storage sizes NMOD, NRES, NEXP are the lengths of the banks (R8, entry 1). -/
structure State where
  /-- the modulus bank (R21) -/
  M : List (Option Modulus)
  /-- the residue register file (R24) -/
  R : List (Option Residue)
  /-- the exponentiation-base bank (R29) -/
  E : List (Option ExpBase)
  /-- the status register (R33) -/
  status : Status
  /-- the response of the last command, 0 when idle (R66, R74) -/
  rsp : Response
  /-- `cmd_word` as sampled at acceptance (R66); the model's own field (entry 4) -/
  cmdWord : CmdWord
  /-- `cmd_din` as sampled at acceptance (R56, R66); the model's own field (entry 4) -/
  cmdDin : W512
  /-- the host's moves to come (R52, R196); the host's, not the block's (entry 3) -/
  pending : List HostMove
  /-- `cmd_index`: commands issued so far (R31, R196); the host's, not the block's (entry 3) -/
  cmdIndex : Nat
deriving DecidableEq, Repr

/-- Why the machine stops. It never does: "There is no double-fault condition and no state in which the block refuses
commands" (R213), "Every command finishes" (R244). A fault of the spec (E_ILLEGAL, E_INDEX, ...) is a NEXT state that carries
its code (`State.raise`). So there is no constructor; nobody raises one (safe, entry 5). -/
inductive Fault where
deriving DecidableEq, Repr

/-- Why the machine gives no meaning to an instruction. -/
inductive Refusal where
  /-- Raised by no arm of `exec`: every command of R70 has its meaning. It stands for an instruction not modelled (safe). -/
  | notModelled (mnemonic : String)
deriving DecidableEq, Repr

/-- The fault codes of R200 of `spec/60_exceptions.md`. Codes 9 to 15 are never produced. -/
inductive ErrCode where
  /-- `E_MOD_RANGE`: "modulus below 2^192" (R201) -/
  | modRange
  /-- `E_MMU0`: "mmu0 error" (R202), unreachable (R95) -/
  | mmu0
  /-- `E_MMU1`: "mmu1 error" (R202), unreachable (R95) -/
  | mmu1
  /-- `E_INCOMPAT`: "incompatible moduli" (R203) -/
  | incompat
  /-- `E_ILLEGAL`: the command word matches no row of the opcode map (R204) -/
  | illegal
  /-- `E_INDEX`: a used index field is out of range (R205) -/
  | index
  /-- `E_INVALID`: a source element has its valid bit clear (R206) -/
  | invalid
  /-- `E_MOD_BUSY`: `MODSET` to a slot that is already valid (R207) -/
  | modBusy
deriving DecidableEq, Repr

/-- What a command that completes leaves: the state it has written, and the data it drives on `DOUT`. -/
structure Effect where
  state : State
  dout : W320
deriving DecidableEq, Repr

/-- The storage sizes of this machine (R8, entry 1). -/
def State.params (s : State) : Params := { nres := s.R.length, nmod := s.M.length, nexp := s.E.length }

/-- `STATUS` after reset (R33, R36). -/
def Status.reset : Status := { flag := false, err := 0, errcmd := 0 }

/-- The response pins after reset and outside a response cycle (R66, R231). -/
def Response.idle : Response := { valid := false, err := 0, flag := false, dout := 0 }

/-- The reset state of a block with storage sizes `p` (R36, R231): no element valid, `STATUS` 0, response pins 0. The host has
issued nothing and no program is loaded (entry 3). -/
def State.resetWith (p : Params) : State :=
  { M := List.replicate p.nmod none
    R := List.replicate p.nres none
    E := List.replicate p.nexp none
    status := Status.reset
    rsp := Response.idle
    cmdWord := 0
    cmdDin := 0
    pending := []
    cmdIndex := 0 }

/-- The machine right after reset, with the storage sizes this hardware takes (R8, R231). -/
def State.reset : State := State.resetWith Config.default

end Sys2Proof.Machine
end

