-- ==== Sys2Proof/Machine/Operands.lean ====
section
/-! DEFINITION. Operand forms: words of a multi-word value (R11, R53), the word primitives (R15), and the operands that travel
through the data ports (R56, R69). -/

namespace Sys2Proof.Machine

/-- Word `j` of a multi-word value, bits `64j+63 : 64j` (R11, R53). -/
def wordOf {n : Nat} (v : BitVec n) (j : Nat) : W64 := BitVec.ofNat 64 (v.toNat / 2 ^ (64 * j))

/-- `val` of a list of words, word 0 first and least significant (R11). -/
def wordsVal : List W64 → Nat
  | [] => 0
  | w :: ws => w.toNat + 2 ^ 64 * wordsVal ws

/-- Four words as a 256-bit value, word 0 first (R11). -/
def words4 (w0 w1 w2 w3 : W64) : W256 := BitVec.ofNat 256 (wordsVal [w0, w1, w2, w3])

/-- Five words as a 320-bit value, word 0 first (R11). -/
def words5 (w0 w1 w2 w3 w4 : W64) : W320 := BitVec.ofNat 320 (wordsVal [w0, w1, w2, w3, w4])

/-- Eight words as a 512-bit value, word 0 first (R11). -/
def words8 (w0 w1 w2 w3 w4 w5 w6 w7 : W64) : W512 := BitVec.ofNat 512 (wordsVal [w0, w1, w2, w3, w4, w5, w6, w7])

/-- `adc(a, b, ci)`: sum and carry out (R15). -/
def adc (a b : W64) (ci : Bool) : W64 × Bool :=
  let s := a.toNat + b.toNat + ci.toNat
  (BitVec.ofNat 64 s, decide (2 ^ 64 ≤ s))

/-- `sbb(a, b, bi)`: difference and borrow out (R15). -/
def sbb (a b : W64) (bi : Bool) : W64 × Bool :=
  let d : Int := a.toNat - b.toNat - bi.toNat
  (BitVec.ofInt 64 d, decide (d < 0))

/-- `lo64(p)` (R15). -/
def lo64 (p : Nat) : W64 := BitVec.ofNat 64 p

/-- `hi64(p)`, for `p < 2^128` (R15). -/
def hi64 (p : Nat) : W64 := BitVec.ofNat 64 (p / 2 ^ 64)

/-- `mul64(a, b)`: (lo64, hi64) of the product (R15). -/
def mul64 (a b : W64) : W64 × W64 := (lo64 (a.toNat * b.toNat), hi64 (a.toNat * b.toNat))

/-- `div32(a, b)`, for `b != 0` (R15); used only inside the reciprocal generator's internal stages, which R92 makes informative. -/
def div32 (a b : BitVec 32) : BitVec 32 := BitVec.ofNat 32 (a.toNat / b.toNat)

/-- `clz64(a)`: zero bits above the highest set bit, 64 for 0 (R15). -/
def clz64 (a : W64) : Nat := if a = 0 then 64 else 63 - a.toNat.log2

/-- `shl256(X, s)`, for `0 <= s < 64` (R15). -/
def shl256 (x : W256) (s : Nat) : W256 := BitVec.ofNat 256 (x.toNat * 2 ^ s)

/-- "Multi-word addition and subtraction are chains of `adc` and `sbb` from word 0 upward" (R15): the sum words and the carry
out of the top word. -/
def adcChain : List W64 → List W64 → Bool → List W64 × Bool
  | a :: as, b :: bs, c =>
    let first := adc a b c
    let rest := adcChain as bs first.2
    (first.1 :: rest.1, rest.2)
  | _, _, c => ([], c)

/-- The `sbb` chain: the difference words and the borrow out of the top word (R15). -/
def sbbChain : List W64 → List W64 → Bool → List W64 × Bool
  | a :: as, b :: bs, c =>
    let first := sbb a b c
    let rest := sbbChain as bs first.2
    (first.1 :: rest.1, rest.2)
  | _, _, c => ([], c)

/-- The four words of a 256-bit value, word 0 first (R11). -/
def wordList4 (v : W256) : List W64 := [wordOf v 0, wordOf v 1, wordOf v 2, wordOf v 3]

/-- `DIN4 = val(DIN[0..3])` of the accepted command: the operand of `MODSET`, `RSET`, `EXP`, `EXPP` (R13, R56, R69).
`DIN[4..7]` are ignored. -/
def State.din4 (s : State) : W256 := BitVec.ofNat 256 s.cmdDin.toNat

/-- `DIN8 = val(DIN[0..7])`: the operand of `RED8` (R13, R56, R69). -/
def State.din8 (s : State) : W512 := s.cmdDin

/-- A 256-bit result on `DOUT`: `DOUT[0..3]`, with `DOUT[4] = 0` (R56). -/
def dout256 (v : W256) : W320 := BitVec.ofNat 320 v.toNat

/-- `DOUT` of a command that drives none (R56). -/
def doutNone : W320 := 0

/-- How many words of `DIN` a command reads; words it does not read "are ignored, whatever they hold" (R56). -/
def dinWords (i : Instr) : Nat :=
  match i with
  | .modset _ => 4
  | .rset _ _ => 4
  | .red8 _ _ => 8
  | .exp _ => 4
  | .expp _ _ => 4
  | .nop | .clrerr | .modget _ | .muget _ | .mmu0get _ | .mmu1get _ | .rget _ | .rcopy _ _ | .red4 _ | .add _ _ | .sub _ _
  | .neg _ | .dbl _ | .mul _ _ | .sqr _ | .eq _ _ | .neq _ _ | .inv _ | .expb _ _ => 0

/-- How many words of `DOUT` a command drives; the others are 0 (R56). -/
def doutWords (i : Instr) : Nat :=
  match i with
  | .modget _ => 4
  | .muget _ => 5
  | .mmu0get _ => 4
  | .mmu1get _ => 4
  | .rget _ => 4
  | .nop | .clrerr | .modset _ | .rset _ _ | .rcopy _ _ | .red4 _ | .red8 _ _ | .add _ _ | .sub _ _ | .neg _ | .dbl _
  | .mul _ _ | .sqr _ | .eq _ _ | .neq _ _ | .inv _ | .exp _ | .expb _ _ | .expp _ _ => 0

end Sys2Proof.Machine
end

