-- ==== Sys2Proof/Machine/Flags.lean ====
section
/-! DEFINITION. The numbers of the fault codes (R200), the carries and borrows that the additive commands test (R15, R32: they
are internal, there is no carry flag), and the values of `STATUS.FLAG` (R32). -/

namespace Sys2Proof.Machine

/-- The 4-bit code of a fault (R200). -/
def ErrCode.code (e : ErrCode) : BitVec 4 :=
  match e with
  | .modRange => 1
  | .mmu0 => 2
  | .mmu1 => 3
  | .incompat => 4
  | .illegal => 5
  | .index => 6
  | .invalid => 7
  | .modBusy => 8

/-- "carry out of bit 255" of a 256-bit addition (R15, R125). -/
def carry256 (z x : W256) : Bool := decide (2 ^ 256 ≤ z.toNat + x.toNat)

/-- The borrow of a 256-bit subtraction (R15, R126). -/
def borrow256 (z x : W256) : Bool := decide (z.toNat < x.toNat)

/-- `FLAG` of `EQ` on canonical values (R180). -/
def eqFlag (a b : W256) : Bool := decide (a = b)

/-- `FLAG` of `NEQ`: "the value written to FLAG complemented" (R181). -/
def neqFlag (f : Bool) : Bool := !f

/-- `FLAG` of `INV`: 1 if the inverse exists (R151). -/
def invFlag (ok : Bool) : Bool := ok

end Sys2Proof.Machine
end

