-- ==== Sys2Proof/Machine/Ops.lean ====
section
/-! DEFINITION. The named operations over the state: index checks and source reads with their fault codes (R205, R206, R207,
R203), writes, taking a fault (R210, R211) and clearing its record (R198, R213), the response (R74), and the host's moves
(R52, R66, R230). The order in which a meaning calls the checks is the priority of R209. -/

namespace Sys2Proof.Machine

/-! ### Index range, `E_INDEX` (R205) -/

/-- `rd` or `rs` is below `NRES`. -/
def State.needReg (s : State) (i : RegIx) : Except ErrCode Unit :=
  if i.toNat < s.R.length then .ok () else .error .index

/-- `ms` is below `NMOD`. -/
def State.needModulus (s : State) (i : SlotIx) : Except ErrCode Unit :=
  if i.toNat < s.M.length then .ok () else .error .index

/-- `es` is below `NEXP`. -/
def State.needBase (s : State) (i : SlotIx) : Except ErrCode Unit :=
  if i.toNat < s.E.length then .ok () else .error .index

/-! ### Sources, `E_INVALID` (R206) -/

/-- Read a residue register as a source. -/
def State.readReg (s : State) (i : RegIx) : Except ErrCode Residue :=
  match s.R[i.toNat]? with
  | some (some x) => .ok x
  | _ => .error .invalid

/-- Read a modulus slot as a source: the slot a command names, or the one a tag names. A valid residue's tag names a valid
slot (R26), so the fault of a tag is unreachable (entry 7). -/
def State.readModulus (s : State) (i : SlotIx) : Except ErrCode Modulus :=
  match s.M[i.toNat]? with
  | some (some x) => .ok x
  | _ => .error .invalid

/-- Read an exponentiation-base slot as a source. -/
def State.readBase (s : State) (i : SlotIx) : Except ErrCode ExpBase :=
  match s.E[i.toNat]? with
  | some (some x) => .ok x
  | _ => .error .invalid

/-! ### Preconditions of one command -/

/-- `MODSET` to a valid slot faults with `E_MOD_BUSY` (R207). -/
def State.needFree (s : State) (i : SlotIx) : Except ErrCode Unit :=
  match s.M[i.toNat]? with
  | some (some _) => .error .modBusy
  | _ => .ok ()

/-- `compat`: equal tags, or equal modulus words (R27). `mz`, `mx` are the moduli that the tags of `z`, `x` name. -/
def compat (z x : Residue) (mz mx : Modulus) : Bool := decide (z.tag = x.tag) || decide (mz.m = mx.m)

/-- `E_INCOMPAT` unless compatible (R203). -/
def needCompat (z x : Residue) (mz mx : Modulus) : Except ErrCode Unit :=
  if compat z x mz mx then .ok () else .error .incompat

/-! ### Writes -/

/-- `R[i] <- (v = 1, x)`. -/
def State.setReg (s : State) (i : RegIx) (x : Residue) : State := { s with R := s.R.set i.toNat (some x) }

/-- `M[i] <- (v = 1, x)`. -/
def State.setModulus (s : State) (i : SlotIx) (x : Modulus) : State := { s with M := s.M.set i.toNat (some x) }

/-- `E[i] <- (v = 1, x)`. -/
def State.setBase (s : State) (i : SlotIx) (x : ExpBase) : State := { s with E := s.E.set i.toNat (some x) }

/-- `FLAG <- b` (R13, R32). -/
def State.setFlag (s : State) (b : Bool) : State := { s with status := { s.status with flag := b } }

/-! ### Faults and responses -/

/-- Recording: the first fault is kept (R211). -/
def Status.record (t : Status) (e : ErrCode) (w : CmdWord) : Status :=
  if t.err = 0 then { t with err := e.code, errcmd := w } else t

/-- TAKING A FAULT, `raise E_X` (R210): nothing of `M`, `R`, `E`, `FLAG` changes; the response carries the code, the unchanged
`FLAG` and `DOUT = 0`; the command word is recorded if no fault is recorded yet (R211). There is no handler to go to: the block
is at once ready for the next command (R213). -/
def State.raise (s : State) (e : ErrCode) : State :=
  { s with
    status := s.status.record e s.cmdWord
    rsp := { valid := true, err := e.code, flag := s.status.flag, dout := doutNone } }

/-- RETURNING FROM A FAULT, in the host's sense: clear the record, which re-arms it (R198, R213). -/
def State.clearErr (s : State) : State := { s with status := { s.status with err := 0, errcmd := 0 } }

/-- The response of a command that completed: `rsp_err = 0`, `rsp_flag` is `FLAG` after the command, and its data (R74). -/
def State.respond (s : State) (dout : W320) : State :=
  { s with rsp := { valid := true, err := 0, flag := s.status.flag, dout := dout } }

/-- End a command: it completed with an effect, or it faulted and its state is the one it started from. -/
def State.finish (s : State) (result : Except ErrCode Effect) : Host.Outcome State Fault Refusal :=
  match result with
  | .ok e => .next (e.state.respond e.dout)
  | .error c => .next (s.raise c)

/-! ### The host's moves (R52) -/

/-- Acceptance: `cmd_word` and `cmd_din` are sampled (R66, R56) and the host's position moves on by one (R196). -/
def State.accept (s : State) (word : CmdWord) (din : W512) (rest : List HostMove) : State :=
  { s with cmdWord := word, cmdDin := din, pending := rest, cmdIndex := s.cmdIndex + 1 }

/-- Reset: "the reset state replaces everything" (R230). The host's moves to come and its position are the host's and stay. -/
def State.applyReset (s : State) (rest : List HostMove) : State :=
  { State.resetWith s.params with pending := rest, cmdIndex := s.cmdIndex }

/-- A cycle without a response: all state held (R214, R221), the response pins 0 (R66). -/
def State.idle (s : State) : State := { s with rsp := Response.idle }

end Sys2Proof.Machine
end

