-- ==== Sys2Proof/Machine/Additive.lean ====
section
/-! DEFINITION. Ring addition, subtraction, negation, doubling (R125 to R134 of `spec/42_add_sub_neg_dbl.md`): ADD, SUB, NEG,
DBL. Exact integers inside, narrowed to 256 bits at the end. -/

namespace Sys2Proof.Machine

/-- `add256(s, z, x)`, with the selection of R125 (C4). -/
def add256 (slot : Modulus) (z x : W256) : W256 :=
  let sum := z.toNat + x.toNat
  if carry256 z x then
    let t := sum - 2 ^ 256
    if t < slot.mmu0.toNat then BitVec.ofNat 256 (t + 2 ^ 256 - slot.mmu0.toNat)
    else BitVec.ofNat 256 (t - slot.mmu1.toNat)
  else BitVec.ofNat 256 sum

/-- `sub256(s, z, x)` (R126). -/
def sub256 (slot : Modulus) (z x : W256) : W256 :=
  if borrow256 z x then
    let t := z.toNat + 2 ^ 256 - x.toNat
    if t + slot.mmu0.toNat < 2 ^ 256 then BitVec.ofNat 256 (t + slot.mmu1.toNat)
    else BitVec.ofNat 256 (t + slot.mmu0.toNat - 2 ^ 256)
  else BitVec.ofNat 256 (z.toNat - x.toNat)

/-- `neg256(s, z)` (R127). -/
def neg256 (slot : Modulus) (z : W256) : W256 :=
  if z.toNat ≤ slot.mmu0.toNat then BitVec.ofNat 256 (slot.mmu0.toNat - z.toNat)
  else BitVec.ofNat 256 (slot.mmu1.toNat + 2 ^ 256 - z.toNat)

/-- ADD: self plus other; compatibility first; the destination keeps its tag and its slot does the arithmetic (R128, R134). -/
def execAdd (rd rs : RegIx) (s : State) : Host.Outcome State Fault Refusal :=
  s.finish do
    s.needReg rd
    s.needReg rs
    let z ← s.readReg rd
    let x ← s.readReg rs
    let mz ← s.readModulus z.tag
    let mx ← s.readModulus x.tag
    needCompat z x mz mx
    return { state := s.setReg rd { z with r := add256 mz z.r x.r }, dout := doutNone }

/-- SUB: self minus other (R129). -/
def execSub (rd rs : RegIx) (s : State) : Host.Outcome State Fault Refusal :=
  s.finish do
    s.needReg rd
    s.needReg rs
    let z ← s.readReg rd
    let x ← s.readReg rs
    let mz ← s.readModulus z.tag
    let mx ← s.readModulus x.tag
    needCompat z x mz mx
    return { state := s.setReg rd { z with r := sub256 mz z.r x.r }, dout := doutNone }

/-- NEG (R130). -/
def execNeg (rd : RegIx) (s : State) : Host.Outcome State Fault Refusal :=
  s.finish do
    s.needReg rd
    let z ← s.readReg rd
    let slot ← s.readModulus z.tag
    return { state := s.setReg rd { z with r := neg256 slot z.r }, dout := doutNone }

/-- DBL: `add256(z, z)`, the fast path being the same function (R131). -/
def execDbl (rd : RegIx) (s : State) : Host.Outcome State Fault Refusal :=
  s.finish do
    s.needReg rd
    let z ← s.readReg rd
    let slot ← s.readModulus z.tag
    return { state := s.setReg rd { z with r := add256 slot z.r z.r }, dout := doutNone }

end Sys2Proof.Machine
end

