-- ==== Sys2Proof/Machine/Reduce.lean ====
section
/-! DEFINITION. The Barrett reducers (R110 to R118 of `spec/41_reducers.md`): RED4, RED8. The algorithms are written as the
spec gives them; that they compute residues is stated for slots that meet R22 (entry 8 says what they do in others). -/

namespace Sys2Proof.Machine

/-- `while r >= m: r = r - m`, at most `n` passes (R110: "The loop runs at most twice"; entry 11). -/
def subtractWhile : Nat → Nat → Nat → Nat
  | 0, _, r => r
  | n + 1, m, r => if m ≤ r then subtractWhile n m (r - m) else r

/-- `reduce4(s, r)`: the canonical representative (R110). -/
def reduce4 (slot : Modulus) (r : W256) : W256 :=
  let q3 := hi64 ((wordOf r 3).toNat * (wordOf slot.mu 4).toNat)
  let r2 := q3.toNat * slot.m.toNat
  BitVec.ofNat 256 (subtractWhile 2 slot.m.toNat (r.toNat - r2))

/-- `reduce8(s, x)`: a 256-bit value congruent to `x`, not always canonical (R113, with `q3` exact). -/
def reduce8 (slot : Modulus) (x : W512) : W256 :=
  let q1 := x.toNat / 2 ^ 192
  let q3 := q1 * slot.mu.toNat / 2 ^ 320
  let r1 := x.toNat % 2 ^ 320
  let r2 := q3 * slot.m.toNat % 2 ^ 320
  let r := (r1 + 2 ^ 320 - r2) % 2 ^ 320
  if r < 2 ^ 256 then BitVec.ofNat 256 r
  else
    let once := r - slot.m.toNat
    if slot.m.toNat ≤ once then BitVec.ofNat 256 (once - slot.m.toNat) else BitVec.ofNat 256 once

/-- RED4: canonicalise in place; tag and valid bit kept (R116). -/
def execRed4 (rd : RegIx) (s : State) : Host.Outcome State Fault Refusal :=
  s.finish do
    s.needReg rd
    let z ← s.readReg rd
    let slot ← s.readModulus z.tag
    return { state := s.setReg rd { z with r := reduce4 slot z.r }, dout := doutNone }

/-- RED8: `rd` is a pure destination, its old content is not read (R117). -/
def execRed8 (rd : RegIx) (ms : SlotIx) (s : State) : Host.Outcome State Fault Refusal :=
  s.finish do
    s.needReg rd
    s.needModulus ms
    let slot ← s.readModulus ms
    return { state := s.setReg rd { tag := ms, r := reduce8 slot s.din8 }, dout := doutNone }

end Sys2Proof.Machine
end

