-- ==== Sys2Proof/Machine/Compare.lean ====
section
/-! DEFINITION. Comparison of residues (R180 to R184 of `spec/46_compare.md`): EQ, NEQ. -/

namespace Sys2Proof.Machine

/-- The steps of `EQ` and `NEQ` (R180, R181): with different modulus words the answer is "not equal" and neither register is
changed; else both registers are canonicalised in place and compared. `answer` maps equality to the value written to `FLAG`. -/
def compareRegs (rd rs : RegIx) (answer : Bool → Bool) (s : State) : Host.Outcome State Fault Refusal :=
  s.finish do
    s.needReg rd
    s.needReg rs
    let z ← s.readReg rd
    let x ← s.readReg rs
    let mz ← s.readModulus z.tag
    let mx ← s.readModulus x.tag
    if mz.m ≠ mx.m then
      return { state := s.setFlag (answer false), dout := doutNone }
    else
      let a := reduce4 mz z.r
      let b := reduce4 mx x.r
      return { state := ((s.setReg rd { z with r := a }).setReg rs { x with r := b }).setFlag (answer (eqFlag a b)),
               dout := doutNone }

/-- EQ (R180). -/
def execEq (rd rs : RegIx) (s : State) : Host.Outcome State Fault Refusal := compareRegs rd rs id s

/-- NEQ: "the steps of EQ rd, rs, with the value written to FLAG complemented" (R181). -/
def execNeq (rd rs : RegIx) (s : State) : Host.Outcome State Fault Refusal := compareRegs rd rs neqFlag s

end Sys2Proof.Machine
end

