-- ==== Sys2Proof/Machine/Multiply.lean ====
section
/-! DEFINITION. Ring multiplication and squaring (R140 to R145 of `spec/43_mul_sqr.md`): MUL, SQR. -/

namespace Sys2Proof.Machine

/-- The schoolbook product: word `n` collects the partial products `a[i]*b[j]` with `i + j = n` (R140). Its value is the exact
product, which is what the rule fixes. -/
def schoolbook (a b : W256) : Nat :=
  ((List.range 4).map fun i =>
    ((List.range 4).map fun j => (wordOf a i).toNat * (wordOf b j).toNat * 2 ^ (64 * (i + j))).sum).sum

/-- The squaring shortcut: six off-diagonal products once, doubled, plus four diagonal squares (R141). -/
def squareShortcut (a : W256) : Nat :=
  let offDiagonal := ([(0, 1), (0, 2), (0, 3), (1, 2), (1, 3), (2, 3)].map fun ij =>
    (wordOf a ij.1).toNat * (wordOf a ij.2).toNat * 2 ^ (64 * (ij.1 + ij.2))).sum
  let diagonal := ((List.range 4).map fun i => (wordOf a i).toNat ^ 2 * 2 ^ (128 * i)).sum
  2 * offDiagonal + diagonal

/-- `mulmod(s, a, b) = reduce8(s, a * b)`, the product exact (R140). -/
def mulmod (slot : Modulus) (a b : W256) : W256 := reduce8 slot (BitVec.ofNat 512 (a.toNat * b.toNat))

/-- `sqrmod(s, a) = reduce8(s, a * a)` (R141). -/
def sqrmod (slot : Modulus) (a : W256) : W256 := reduce8 slot (BitVec.ofNat 512 (a.toNat * a.toNat))

/-- MUL: "If z and x are the same residue, delegate to Sqr", else compatibility, then the product (R142, R144). -/
def execMul (rd rs : RegIx) (s : State) : Host.Outcome State Fault Refusal :=
  s.finish do
    s.needReg rd
    s.needReg rs
    let z ← s.readReg rd
    let x ← s.readReg rs
    let mz ← s.readModulus z.tag
    if rd = rs then
      return { state := s.setReg rd { z with r := sqrmod mz z.r }, dout := doutNone }
    else
      let mx ← s.readModulus x.tag
      needCompat z x mz mx
      return { state := s.setReg rd { z with r := mulmod mz z.r x.r }, dout := doutNone }

/-- SQR (R143). -/
def execSqr (rd : RegIx) (s : State) : Host.Outcome State Fault Refusal :=
  s.finish do
    s.needReg rd
    let z ← s.readReg rd
    let slot ← s.readModulus z.tag
    return { state := s.setReg rd { z with r := sqrmod slot z.r }, dout := doutNone }

end Sys2Proof.Machine
end

