-- ==== Sys2Proof/Machine/Exponent.lean ====
section
/-! DEFINITION. Windowed modular exponentiation (R160 to R173 of `spec/45_exponentiation.md`): EXP, EXPB, EXPP. -/

namespace Sys2Proof.Machine

/-- `win(y, b)`: bit `b` of each limb, limb `k` giving bit `k` of the index (R160). -/
def win (y : W256) (b : Nat) : Nat :=
  ((wordOf y 3).getLsbD b).toNat * 8 + ((wordOf y 2).getLsbD b).toNat * 4 + ((wordOf y 1).getLsbD b).toNat * 2
    + ((wordOf y 0).getLsbD b).toNat

/-- `e(j)`: the exponent that table index `j` stands for (R161). -/
def windowWeight (j : Nat) : Nat :=
  (j.testBit 0).toNat + (j.testBit 1).toNat * 2 ^ 64 + (j.testBit 2).toNat * 2 ^ 128 + (j.testBit 3).toNat * 2 ^ 192

/-- `repeat n times: r = sqrmod(s, r)`. -/
def squarings (slot : Modulus) : Nat → W256 → W256
  | 0, r => r
  | n + 1, r => squarings slot n (sqrmod slot r)

/-- Double a table with the anchor `r`: entry `2^n` is `r`, entry `2^n + j` is `mulmod(r, t[j])` for `j = 1 .. 2^n - 1`
(R162, R166). -/
def extendTable (slot : Modulus) (t : List W256) (r : W256) : List W256 := t ++ r :: t.tail.map (mulmod slot r)

/-- Table entry `j`; the tables have 16 entries and `win` is below 16. -/
def tableEntry (t : List W256) (j : Nat) : W256 := t.getD j 0

/-- `table(s, x, B)` (R162): `t[0]` is raw 1, `t[1]` the raw base, anchors 2, 4, 8 by `B` squarings each. -/
def powerTable (slot : Modulus) (x : W256) (squaringsPerBlock : Nat) : List W256 :=
  let r2 := squarings slot squaringsPerBlock x
  let r4 := squarings slot squaringsPerBlock r2
  let r8 := squarings slot squaringsPerBlock r4
  extendTable slot (extendTable slot (extendTable slot [1, x] r2) r4) r8

/-- The scan of `exp256` below bit position `b`: square, multiply by the window's entry, also when the index is 0 (R163). -/
def expScan (slot : Modulus) (t : List W256) (y : W256) : Nat → W256 → W256
  | 0, acc => acc
  | b + 1, acc => expScan slot t y b (mulmod slot (sqrmod slot acc) (tableEntry t (win y b)))

/-- `exp256(s, z, y)` (R163). -/
def exp256 (slot : Modulus) (z y : W256) : W256 :=
  let t := powerTable slot z 64
  expScan slot t y 63 (tableEntry t (win y 63))

/-- The two tables while they are built, and the running power `r` (R166). -/
structure BaseBuild where
  l : List W256
  h : List W256
  r : W256
deriving DecidableEq, Repr

/-- Before the loop: `l = [1, x]`, 32 squarings, `h = [1, x^(2^32)]` (R166). -/
def baseStart (slot : Modulus) (x : W256) : BaseBuild :=
  let r := squarings slot 32 x
  { l := [1, x], h := [1, r], r := r }

/-- One turn of the loop: 32 squarings and the fill of `l`, 32 squarings and the fill of `h` (R166, C14). -/
def baseTurn (slot : Modulus) (t : BaseBuild) : BaseBuild :=
  let rl := squarings slot 32 t.r
  let rh := squarings slot 32 rl
  { l := extendTable slot t.l rl, h := extendTable slot t.h rh, r := rh }

/-- `expbase(s, x)` (R166): turns for the anchors 2, 4, 8. -/
def expbase (slot : Modulus) (x : W256) : BaseBuild :=
  baseTurn slot (baseTurn slot (baseTurn slot (baseStart slot x)))

theorem extendTable_length (slot : Modulus) (t : List W256) (r : W256) (h : t ≠ []) :
    (extendTable slot t r).length = 2 * t.length := by
  cases t with
  | nil => exact absurd rfl h
  | cons a as => simp [extendTable]; omega

theorem extendTable_ne_nil (slot : Modulus) (t : List W256) (r : W256) : extendTable slot t r ≠ [] := by
  simp [extendTable]

theorem expbase_l_length (slot : Modulus) (x : W256) : (expbase slot x).l.length = 16 := by
  simp only [expbase, baseTurn, baseStart]
  rw [extendTable_length _ _ _ (extendTable_ne_nil _ _ _), extendTable_length _ _ _ (extendTable_ne_nil _ _ _),
    extendTable_length _ _ _ (by simp)]
  rfl

theorem expbase_h_length (slot : Modulus) (x : W256) : (expbase slot x).h.length = 16 := by
  simp only [expbase, baseTurn, baseStart]
  rw [extendTable_length _ _ _ (extendTable_ne_nil _ _ _), extendTable_length _ _ _ (extendTable_ne_nil _ _ _),
    extendTable_length _ _ _ (by simp)]
  rfl

/-- The slot that `EXPB` writes: the two tables of the base and its tag (R167). -/
def newBase (slot : Modulus) (x : Residue) : ExpBase :=
  { tag := x.tag
    l := ⟨(expbase slot x.r).l.toArray, by simpa using expbase_l_length slot x.r⟩
    h := ⟨(expbase slot x.r).h.toArray, by simpa using expbase_h_length slot x.r⟩ }

/-- The scan of `expp256` below bit position `b` of the low stream: square, multiply by `h`, multiply by `l` (R168). -/
def exppScan (slot : Modulus) (l h : List W256) (y : W256) : Nat → W256 → W256
  | 0, acc => acc
  | b + 1, acc =>
    exppScan slot l h y b
      (mulmod slot (mulmod slot (sqrmod slot acc) (tableEntry h (win y (b + 32)))) (tableEntry l (win y b)))

/-- `expp256(s, l, h, y)` (R168). -/
def expp256 (slot : Modulus) (l h : List W256) (y : W256) : W256 :=
  exppScan slot l h y 31 (mulmod slot (tableEntry h (win y 63)) (tableEntry l (win y 31)))

/-- EXP: self to the power `DIN[0..3]` (R164). -/
def execExp (rd : RegIx) (s : State) : Host.Outcome State Fault Refusal :=
  s.finish do
    s.needReg rd
    let z ← s.readReg rd
    let slot ← s.readModulus z.tag
    return { state := s.setReg rd { z with r := exp256 slot z.r s.din4 }, dout := doutNone }

/-- EXPB: build the tables of `R[rs]`, which is not changed; a valid slot is overwritten (R167). -/
def execExpb (es : SlotIx) (rs : RegIx) (s : State) : Host.Outcome State Fault Refusal :=
  s.finish do
    s.needBase es
    s.needReg rs
    let x ← s.readReg rs
    let slot ← s.readModulus x.tag
    return { state := s.setBase es (newBase slot x), dout := doutNone }

/-- EXPP: `rd` is a pure destination and takes the base's tag (R169). -/
def execExpp (rd : RegIx) (es : SlotIx) (s : State) : Host.Outcome State Fault Refusal :=
  s.finish do
    s.needReg rd
    s.needBase es
    let base ← s.readBase es
    let slot ← s.readModulus base.tag
    return { state := s.setReg rd { tag := base.tag, r := expp256 slot base.l.toList base.h.toList s.din4 },
             dout := doutNone }

end Sys2Proof.Machine
end

