-- ==== Sys2Proof/Machine/Inversion.lean ====
section
/-! DEFINITION. Modular inversion by the binary extended GCD (R150 to R157 of `spec/44_inversion.md`): INV. The cofactors are
unbounded integers, which R12 and R156 allow; each `while` loop is a structural recursion on a bound that the loop never
reaches (entry 11). -/

namespace Sys2Proof.Machine

/-- The working values `u, v, a, b, c, d` (R150). They exist only inside the command (R35). -/
structure GcdState where
  u : Nat
  v : Nat
  a : Int
  b : Int
  c : Int
  d : Int
deriving DecidableEq, Repr

/-- "the arithmetic shift by one": `asr(v, 1) = floor(v / 2)` (R12). -/
def asr1 (x : Int) : Int := x / 2

/-- `u = r ; v = m ; a = 1 ; b = 0 ; c = 0 ; d = 1` (R150). -/
def gcdStart (m r : Nat) : GcdState := { u := r, v := m, a := 1, b := 0, c := 0, d := 1 }

/-- The body of step 1: make `a`, `b` even by the sign-correcting update if one is odd, then halve `u`, `a`, `b` (R150). -/
def halveUOnce (m r : Nat) (g : GcdState) : GcdState :=
  if g.a % 2 = 1 ∨ g.b % 2 = 1 then { g with u := g.u / 2, a := asr1 (g.a + m), b := asr1 (g.b - r) }
  else { g with u := g.u / 2, a := asr1 g.a, b := asr1 g.b }

/-- The body of step 2, symmetric in `v`, `c`, `d` (R150). -/
def halveVOnce (m r : Nat) (g : GcdState) : GcdState :=
  if g.c % 2 = 1 ∨ g.d % 2 = 1 then { g with v := g.v / 2, c := asr1 (g.c + m), d := asr1 (g.d - r) }
  else { g with v := g.v / 2, c := asr1 g.c, d := asr1 g.d }

/-- Step 1: `while u is even`. -/
def halveU (m r : Nat) : Nat → GcdState → GcdState
  | 0, g => g
  | n + 1, g => if g.u % 2 = 0 then halveU m r n (halveUOnce m r g) else g

/-- Step 2: `while v is even`. -/
def halveV (m r : Nat) : Nat → GcdState → GcdState
  | 0, g => g
  | n + 1, g => if g.v % 2 = 0 then halveV m r n (halveVOnce m r g) else g

/-- Step 3: subtract the smaller of `u`, `v` from the larger, with its cofactors (R150). -/
def gcdSubtract (g : GcdState) : GcdState :=
  if g.v ≤ g.u then { g with u := g.u - g.v, a := g.a - g.c, b := g.b - g.d }
  else { g with v := g.v - g.u, c := g.c - g.a, d := g.d - g.b }

/-- One pass of the outer loop: steps 1, 2, 3. A value below `2^256` is halved at most 256 times. -/
def gcdPass (m r : Nat) (g : GcdState) : GcdState := gcdSubtract (halveV m r 256 (halveU m r 256 g))

/-- `while u != 0` (R150). -/
def gcdLoop (m r : Nat) : Nat → GcdState → GcdState
  | 0, g => g
  | n + 1, g => if g.u = 0 then g else gcdLoop m r n (gcdPass m r g)

/-- `while c < 0: c = c + m` (R150). -/
def addWhileNegative (m : Nat) : Nat → Int → Int
  | 0, c => c
  | n + 1, c => if c < 0 then addWhileNegative m n (c + m) else c

/-- `while c >= 2^256: c = c - m` (R150). -/
def subtractWhileWide (m : Nat) : Nat → Int → Int
  | 0, c => c
  | n + 1, c => if 2 ^ 256 ≤ c then subtractWhileWide m n (c - m) else c

/-- The two normalisation loops of the termination. `|c| / m + 1` passes are enough for either. -/
def normalise (m : Nat) (c : Int) : Int :=
  let nonNegative := addWhileNegative m (c.natAbs / m + 1) c
  subtractWhileWide m (nonNegative.natAbs / m + 1) nonNegative

/-- `inv256(s, r)`: (value, success) (R150). The raw value is used as it stands (D30). At most 514 passes (R154). -/
def inv256 (slot : Modulus) (r : W256) : W256 × Bool :=
  let m := slot.m.toNat
  let u := r.toNat
  if u = 0 ∨ m = 0 ∨ (u % 2 = 0 ∧ m % 2 = 0) then (0, false)
  else
    let g := gcdLoop m u 514 (gcdStart m u)
    if g.v = 1 then (BitVec.ofInt 256 (normalise m g.c), true) else (0, false)

/-- INV: the inverse, or raw 0; `FLAG` is success; non-existence is not a fault (R151). -/
def execInv (rd : RegIx) (s : State) : Host.Outcome State Fault Refusal :=
  s.finish do
    s.needReg rd
    let z ← s.readReg rd
    let slot ← s.readModulus z.tag
    let result := inv256 slot z.r
    return { state := (s.setReg rd { z with r := result.1 }).setFlag (invFlag result.2), dout := doutNone }

end Sys2Proof.Machine
end

