-- ==== Sys2Proof/Machine/Reciprocal.lean ====
section
/-! DEFINITION. The reciprocal generator and modulus construction (R90 to R101 of `spec/40_reciprocal_modulus.md`): MODSET,
MODGET, MUGET, MMU0GET, MMU1GET. -/

namespace Sys2Proof.Machine

/-- `recip(m) = floor((2^512 - 1) / m)` (R90). The Newton stages are informative (R92); only the result is architectural. -/
def recip (m : Nat) : Nat := (2 ^ 512 - 1) / m

/-- "m is a power of two (`m[0]|m[1]|m[2]|(m[3] & (m[3]-1)) = 0`)", for `m[3] != 0` (R91). -/
def isPowerOfTwo (m : W256) : Bool :=
  decide ((wordOf m 0 ||| wordOf m 1 ||| wordOf m 2 ||| (wordOf m 3 &&& (wordOf m 3 - 1))) = 0)

/-- The tuple returned directly for a power of two: four all-ones words and `2^(s+1) - 1`, with `s = clz64(m[3])` (R91, C2).
It is the value of `recip`, reached without the stages. -/
def recipPowerOfTwo (m : W256) : W320 :=
  words5 (-1) (-1) (-1) (-1) (BitVec.ofNat 64 (2 ^ (clz64 (wordOf m 3) + 1) - 1))

/-- Steps 3 and 4 of `newmod`, for a reciprocal `mu`: `mmu0 = mu[4]*m` and `mmu1 = mmu0 + m - 2^256`, with the self-test of each
(R94, C3, R202). -/
def newmodWith (mu : W320) (m : W256) : Except ErrCode Modulus :=
  let p := (wordOf mu 4).toNat * m.toNat
  if p / 2 ^ 256 ≠ 0 then .error .mmu0
  else
    let sum := p + m.toNat
    if sum < 2 ^ 256 then .error .mmu1
    else .ok { m := m, mu := mu, mmu0 := BitVec.ofNat 256 p, mmu1 := BitVec.ofNat 256 (sum - 2 ^ 256) }

/-- `newmod(m)`: the fault "modulus below 2^192" when `m[3] = 0`, else the four fields (R94). -/
def newmod (m : W256) : Except ErrCode Modulus :=
  if wordOf m 3 = 0 then .error .modRange else newmodWith (BitVec.ofNat 320 (recip m.toNat)) m

/-- MODSET (R96). -/
def execModset (ms : SlotIx) (s : State) : Host.Outcome State Fault Refusal :=
  s.finish do
    s.needModulus ms
    s.needFree ms
    let slot ← newmod s.din4
    return { state := s.setModulus ms slot, dout := doutNone }

/-- The four read-outs of a modulus slot: a field of it on `DOUT`, no state changed (R97 to R100). -/
def readOut (ms : SlotIx) (field : Modulus → W320) (s : State) : Host.Outcome State Fault Refusal :=
  s.finish do
    s.needModulus ms
    let slot ← s.readModulus ms
    return { state := s, dout := field slot }

/-- MODGET: `DOUT <- M[ms].m` (R97). -/
def execModget (ms : SlotIx) (s : State) : Host.Outcome State Fault Refusal :=
  readOut ms (fun slot => dout256 slot.m) s

/-- MUGET: `DOUT <- M[ms].mu`, all five words (R98). -/
def execMuget (ms : SlotIx) (s : State) : Host.Outcome State Fault Refusal :=
  readOut ms (fun slot => slot.mu) s

/-- MMU0GET: `DOUT <- M[ms].mmu0` (R99). -/
def execMmu0get (ms : SlotIx) (s : State) : Host.Outcome State Fault Refusal :=
  readOut ms (fun slot => dout256 slot.mmu0) s

/-- MMU1GET: `DOUT <- M[ms].mmu1` (R100). -/
def execMmu1get (ms : SlotIx) (s : State) : Host.Outcome State Fault Refusal :=
  readOut ms (fun slot => dout256 slot.mmu1) s

end Sys2Proof.Machine
end

