-- ==== Sys2Proof/Machine/System.lean ====
section
/-! DEFINITION. System commands (R195, R197, R198 of `spec/47_transfer_system.md`) and illegal words (R72, R204). -/

namespace Sys2Proof.Machine

/-- NOP: nothing; `DOUT = 0`, `rsp_err = 0`, `rsp_flag` the unchanged `FLAG` (R197). -/
def execNop (s : State) : Host.Outcome State Fault Refusal := s.finish (.ok { state := s, dout := doutNone })

/-- CLRERR: `STATUS.ERR <- 0 ; STATUS.ERRCMD <- 0` (R198). -/
def execClrerr (s : State) : Host.Outcome State Fault Refusal := s.finish (.ok { state := s.clearErr, dout := doutNone })

/-- An illegal word is answered with `E_ILLEGAL` and changes nothing but the error record (R72, R204). -/
def execIllegal (s : State) : Host.Outcome State Fault Refusal := s.finish (.error .illegal)

end Sys2Proof.Machine
end

