-- ==== Sys2Proof/Machine/Transfer.lean ====
section
/-! DEFINITION. Transfer commands (R187 to R189 of `spec/47_transfer_system.md`): RSET, RGET, RCOPY. -/

namespace Sys2Proof.Machine

/-- RSET: the words are stored as given, not reduced; `rd` is a pure destination (R187). -/
def execRset (rd : RegIx) (ms : SlotIx) (s : State) : Host.Outcome State Fault Refusal :=
  s.finish do
    s.needReg rd
    s.needModulus ms
    let _ ← s.readModulus ms
    return { state := s.setReg rd { tag := ms, r := s.din4 }, dout := doutNone }

/-- RGET: canonicalise in place and read out (R188). -/
def execRget (rd : RegIx) (s : State) : Host.Outcome State Fault Refusal :=
  s.finish do
    s.needReg rd
    let z ← s.readReg rd
    let slot ← s.readModulus z.tag
    let c := reduce4 slot z.r
    return { state := s.setReg rd { z with r := c }, dout := dout256 c }

/-- RCOPY: valid bit, tag and raw words; the old `R[rd]` is ignored (R189). -/
def execRcopy (rd rs : RegIx) (s : State) : Host.Outcome State Fault Refusal :=
  s.finish do
    s.needReg rd
    s.needReg rs
    let x ← s.readReg rs
    return { state := s.setReg rd x, dout := doutNone }

end Sys2Proof.Machine
end

