-- ==== Sys2Proof/Machine/Dispatch.lean ====
section
/-! DEFINITION. One arm per command of the opcode map (R70), each one direct call of its meaning. -/

namespace Sys2Proof.Machine

def exec (i : Instr) (s : State) : Host.Outcome State Fault Refusal :=
  match i with
  | .nop => Sys2Proof.Machine.execNop s
  | .clrerr => Sys2Proof.Machine.execClrerr s
  | .modset ms => Sys2Proof.Machine.execModset ms s
  | .modget ms => Sys2Proof.Machine.execModget ms s
  | .muget ms => Sys2Proof.Machine.execMuget ms s
  | .mmu0get ms => Sys2Proof.Machine.execMmu0get ms s
  | .mmu1get ms => Sys2Proof.Machine.execMmu1get ms s
  | .rset rd ms => Sys2Proof.Machine.execRset rd ms s
  | .rget rd => Sys2Proof.Machine.execRget rd s
  | .rcopy rd rs => Sys2Proof.Machine.execRcopy rd rs s
  | .red4 rd => Sys2Proof.Machine.execRed4 rd s
  | .red8 rd ms => Sys2Proof.Machine.execRed8 rd ms s
  | .add rd rs => Sys2Proof.Machine.execAdd rd rs s
  | .sub rd rs => Sys2Proof.Machine.execSub rd rs s
  | .neg rd => Sys2Proof.Machine.execNeg rd s
  | .dbl rd => Sys2Proof.Machine.execDbl rd s
  | .mul rd rs => Sys2Proof.Machine.execMul rd rs s
  | .sqr rd => Sys2Proof.Machine.execSqr rd s
  | .eq rd rs => Sys2Proof.Machine.execEq rd rs s
  | .neq rd rs => Sys2Proof.Machine.execNeq rd rs s
  | .inv rd => Sys2Proof.Machine.execInv rd s
  | .exp rd => Sys2Proof.Machine.execExp rd s
  | .expb es rs => Sys2Proof.Machine.execExpb es rs s
  | .expp rd es => Sys2Proof.Machine.execExpp rd es s

end Sys2Proof.Machine
end

