-- ==== Sys2Proof/Machine/Fetch.lean ====
section
/-! DEFINITION. How a command comes to run. The block fetches nothing: the host supplies the command word with each command
(R31, R62). A command that was accepted is decoded and executed (R71, R72), and the host's next move is taken from the list of
its moves to come (R52, R196, entry 3). -/

namespace Sys2Proof.Machine

/-- The transaction of the accepted command (R66): decode its word; run it, or answer `E_ILLEGAL`. -/
def runAccepted (s : State) : Host.Outcome State Fault Refusal :=
  match decode s.cmdWord with
  | .ok i => exec i s
  | .error _ => execIllegal s

/-- The host's next move: a reset, a command and its whole transaction (R51: atomic, in issue order), or none, in which case the
block is idle (R66, R214, R221). -/
def takeMove (s : State) : Host.Outcome State Fault Refusal :=
  match s.pending with
  | [] => .next s.idle
  | .reset :: rest => .next (s.applyReset rest)
  | .issue word din :: rest => runAccepted (s.accept word din rest)

/-- The host's next move is to issue the command word `word` with `DIN` all zero (R75: a missing tuple means all-zero words). -/
def State.issueNext (s : State) (word : CmdWord) : State := { s with pending := .issue word 0 :: s.pending }

end Sys2Proof.Machine
end

