-- ==== Sys2Proof/Machine/Step.lean ====
section
/-! DEFINITION. One step of the machine, and where the host's questions place an instruction. -/

namespace Sys2Proof.Machine

/-- One step: one move of the host with the block's whole answer to it (R51, R52, R66), or one idle cycle. -/
def step (s : State) : Host.Outcome State Fault Refusal := takeMove s

/-- The command of `nbits` bits `w`, every bit above 0, as the host's very next move. There is no instruction memory to store it
in (R31); a program is loaded from outside the machine and this stands for that load (entry 3). -/
def State.withFetchWord (s : State) (nbits w : Nat) : State := s.issueNext (BitVec.ofNat 32 (w % 2 ^ nbits))

end Sys2Proof.Machine
end

