-- ==== Sys2Proof/Machine/Assembly.lean ====
section
/-! DEFINITION. The assembler of R75 and the pseudo-instructions of R76 (`spec/30_encoding.md`), on lines already split into a
mnemonic, operands and a data tuple (the spelling of letters, numbers and comments is below this model, entry 12). A line gives
what the host issues: a command word and `DIN`. -/

namespace Sys2Proof.Machine

/-- The mnemonics of R70, and the pseudo-instructions MOV, ZERO, CANON of R76. -/
inductive Mnemonic where
  | nop | clrerr | modset | modget | muget | mmu0get | mmu1get | rset | rget | rcopy | red4 | red8 | add | sub | neg | dbl
  | mul | sqr | eq | neq | inv | exp | expb | expp | mov | zero | canon
deriving DecidableEq, Repr

/-- `operand := "r" N | "m" N | "e" N` (R75). -/
inductive AsmOperand where
  | r (n : Nat)
  | m (n : Nat)
  | e (n : Nat)
deriving DecidableEq, Repr

/-- `line := mnemonic [ operand , operand ] [ "<-" data ]` (R75). -/
structure AsmLine where
  mnemonic : Mnemonic
  operands : List AsmOperand
  data : Option (List W64)
deriving DecidableEq, Repr

/-- A residue register operand: N in 0..31 (R75). -/
def asmReg (n : Nat) : Option RegIx := if n < 32 then some (BitVec.ofNat 5 n) else none

/-- A slot operand: N in 0..15 (R75). -/
def asmSlot (n : Nat) : Option SlotIx := if n < 16 then some (BitVec.ofNat 4 n) else none

/-- One operand `r`. -/
def asmD (mk : RegIx → Instr) : List AsmOperand → Option Instr
  | [.r d] => (asmReg d).map mk
  | _ => none

/-- Operands `r, r`. -/
def asmDS (mk : RegIx → RegIx → Instr) : List AsmOperand → Option Instr
  | [.r d, .r x] => (asmReg d).bind fun d => (asmReg x).map (mk d)
  | _ => none

/-- One operand `m`. -/
def asmM (mk : SlotIx → Instr) : List AsmOperand → Option Instr
  | [.m k] => (asmSlot k).map mk
  | _ => none

/-- Operands `r, m`. -/
def asmDM (mk : RegIx → SlotIx → Instr) : List AsmOperand → Option Instr
  | [.r d, .m k] => (asmReg d).bind fun d => (asmSlot k).map (mk d)
  | _ => none

/-- Operands `e, r`. -/
def asmES (mk : SlotIx → RegIx → Instr) : List AsmOperand → Option Instr
  | [.e k, .r x] => (asmSlot k).bind fun k => (asmReg x).map (mk k)
  | _ => none

/-- Operands `r, e`. -/
def asmDE (mk : RegIx → SlotIx → Instr) : List AsmOperand → Option Instr
  | [.r d, .e k] => (asmReg d).bind fun d => (asmSlot k).map (mk d)
  | _ => none

/-- No operand. -/
def asmN (i : Instr) : List AsmOperand → Option Instr
  | [] => some i
  | _ => none

/-- "Operand order is that of the "Fields" column of rule R70" (R75); the pseudo-instructions expand as R76 says:
MOV to RCOPY, ZERO to SUB of the register from itself, CANON to RED4. -/
def asmInstr (mn : Mnemonic) (ops : List AsmOperand) : Option Instr :=
  match mn with
  | .nop => asmN .nop ops
  | .clrerr => asmN .clrerr ops
  | .modset => asmM .modset ops
  | .modget => asmM .modget ops
  | .muget => asmM .muget ops
  | .mmu0get => asmM .mmu0get ops
  | .mmu1get => asmM .mmu1get ops
  | .rset => asmDM .rset ops
  | .rget => asmD .rget ops
  | .rcopy => asmDS .rcopy ops
  | .red4 => asmD .red4 ops
  | .red8 => asmDM .red8 ops
  | .add => asmDS .add ops
  | .sub => asmDS .sub ops
  | .neg => asmD .neg ops
  | .dbl => asmD .dbl ops
  | .mul => asmDS .mul ops
  | .sqr => asmD .sqr ops
  | .eq => asmDS .eq ops
  | .neq => asmDS .neq ops
  | .inv => asmD .inv ops
  | .exp => asmD .exp ops
  | .expb => asmES .expb ops
  | .expp => asmDE .expp ops
  | .mov => asmDS .rcopy ops
  | .zero => asmD (fun d => .sub d d) ops
  | .canon => asmD .red4 ops

/-- The data tuple as `DIN`: "word 0 first; missing words are 0", four words or eight (R75). -/
def asmData (ws : List W64) : Option W512 :=
  if ws.length = 4 ∨ ws.length = 8 then some (BitVec.ofNat 512 (wordsVal ws)) else none

/-- What a line makes the host issue. "A data tuple on a command that reads no `DIN` is an assembly error; a missing tuple on a
command that reads `DIN` means all-zero words" (R75). -/
def assemble (line : AsmLine) : Option HostMove :=
  (asmInstr line.mnemonic line.operands).bind fun i =>
    match line.data with
    | none => some (.issue (encode i) 0)
    | some ws => if dinWords i = 0 then none else (asmData ws).map (.issue (encode i))

end Sys2Proof.Machine
end

