-- ==== Sys2Proof/Machine/Clocked.lean ====
section
/-! DEFINITION. The block at its pins, one rising clock edge at a time: the handshake, the latency, the one-cycle response and
the reset signal (R65, R66, R230, R241). `step` is one whole transaction, which is all a model needs (R66); this file says how a
transaction lies on the clock. The latency `LAT` is an argument (R9, entry 9). -/

namespace Sys2Proof.Machine

/-- The input pins, as sampled at a rising edge (R65). -/
structure PinsIn where
  rst : Bool
  cmdValid : Bool
  cmdWord : CmdWord
  cmdDin : W512
deriving DecidableEq, Repr

/-- The output pins (R65). -/
structure PinsOut where
  cmdReady : Bool
  rspValid : Bool
  rspErr : BitVec 4
  rspFlag : Bool
  rspDout : W320
  statusFlag : Bool
  statusErr : BitVec 4
  statusErrcmd : CmdWord
deriving DecidableEq, Repr

/-- Where the block stands between two edges. -/
inductive Phase where
  /-- no command in flight: `cmd_ready = 1` unless `rst = 1` -/
  | ready
  /-- a command was accepted and its response comes at the `left`-th edge from now; `cmd_ready = 0` (R66) -/
  | busy (left : Nat)
deriving DecidableEq, Repr

/-- The block between two rising edges. -/
structure Clocked where
  block : State
  phase : Phase
deriving DecidableEq, Repr

/-- `LAT(cmd, state)`: cycles from acceptance to response, a parameter left open (R9); 0 is read as 1 (`LAT >= 1`, R66). -/
abbrev Latency := CmdWord → W512 → State → Nat

/-- The pins the block drives (R65), given the level of `rst` in the same cycle: "While `rst = 1`, `cmd_ready = 0` and
`rsp_valid = 0`" (R230), so the response pins are 0 then (R66). -/
def Clocked.pins (c : Clocked) (rst : Bool) : PinsOut :=
  let rsp := if rst then Response.idle else c.block.rsp
  { cmdReady := !rst && decide (c.phase = .ready)
    rspValid := rsp.valid
    rspErr := rsp.err
    rspFlag := rsp.flag
    rspDout := rsp.dout
    statusFlag := c.block.status.flag
    statusErr := c.block.status.err
    statusErrcmd := c.block.status.errcmd }

/-- The state at the end of the accepted command's transaction. The machine never stops (R213), so the other two outcomes do not
occur. -/
def State.answered (s : State) : State :=
  match runAccepted s with
  | .next t => t
  | .fault _ => s
  | .refused _ => s

/-- One rising edge (R65, R66, R230). With `rst = 1` the reset state replaces everything, a command in flight included, and at the
first edge with `rst = 0` the block accepts commands. A command is accepted when `cmd_valid = 1` and `cmd_ready = 1`; its response
is presented for one cycle, `LAT` edges later, and by then all state holds its final values. Until then the model shows the old
state, and `cmd_ready` returns in the cycle of the response (entry 9). -/
def clockEdge (lat : Latency) (c : Clocked) (p : PinsIn) : Clocked :=
  if p.rst then { block := c.block.applyReset c.block.pending, phase := .ready }
  else
    match c.phase with
    | .ready =>
      if p.cmdValid then
        { block := (c.block.accept p.cmdWord p.cmdDin c.block.pending).idle
          phase := .busy (lat p.cmdWord p.cmdDin c.block) }
      else { block := c.block.idle, phase := .ready }
    | .busy left =>
      if left ≤ 1 then { block := c.block.answered, phase := .ready }
      else { block := c.block.idle, phase := .busy (left - 1) }

/-- A run of rising edges. -/
def clockRun (lat : Latency) : Clocked → List PinsIn → Clocked
  | c, [] => c
  | c, p :: ps => clockRun lat (clockEdge lat c p) ps

end Sys2Proof.Machine
end

