-- ==== Sys2Proof/WellFormed.lean ====
section
/-! DEFINITION. Well-formedness of a command for given storage sizes: every index field it uses is in range, R205 of
`spec/60_exceptions.md`. A term of `Instr` always has an encoding (its operand types are the field widths of R67), so the
range is the one check left; the machine answers a command that fails it with `E_INDEX`. -/

namespace Sys2Proof

/-- The register index is below `NRES` (R205). -/
def Params.hasReg (p : Params) (i : RegIx) : Bool := decide (i.toNat < p.nres)

/-- The modulus slot index is below `NMOD` (R205). -/
def Params.hasModulus (p : Params) (i : SlotIx) : Bool := decide (i.toNat < p.nmod)

/-- The exponentiation-base slot index is below `NEXP` (R205). -/
def Params.hasBase (p : Params) (i : SlotIx) : Bool := decide (i.toNat < p.nexp)

/-- "All used fields are tested, and one failure is enough" (R205). -/
def Instr.wf (p : Params) (i : Instr) : Bool :=
  match i with
  | .nop => true
  | .clrerr => true
  | .modset ms => p.hasModulus ms
  | .modget ms => p.hasModulus ms
  | .muget ms => p.hasModulus ms
  | .mmu0get ms => p.hasModulus ms
  | .mmu1get ms => p.hasModulus ms
  | .rset rd ms => p.hasReg rd && p.hasModulus ms
  | .rget rd => p.hasReg rd
  | .rcopy rd rs => p.hasReg rd && p.hasReg rs
  | .red4 rd => p.hasReg rd
  | .red8 rd ms => p.hasReg rd && p.hasModulus ms
  | .add rd rs => p.hasReg rd && p.hasReg rs
  | .sub rd rs => p.hasReg rd && p.hasReg rs
  | .neg rd => p.hasReg rd
  | .dbl rd => p.hasReg rd
  | .mul rd rs => p.hasReg rd && p.hasReg rs
  | .sqr rd => p.hasReg rd
  | .eq rd rs => p.hasReg rd && p.hasReg rs
  | .neq rd rs => p.hasReg rd && p.hasReg rs
  | .inv rd => p.hasReg rd
  | .exp rd => p.hasReg rd
  | .expb es rs => p.hasBase es && p.hasReg rs
  | .expp rd es => p.hasReg rd && p.hasBase es

end Sys2Proof
end

