-- ==== Sys2Proof/Safety.lean ====
section
/-! DEFINITION. The terms that claims use: what a good state of the block is (R22, R26, R30, R37), which state each command
may write (R38), which fault codes it can report (R212), when its sources are valid (R206), when two states hold the same
classes (R192), and that a run never stops (R213). -/

namespace Sys2Proof.Machine

/-- `k = floor((2^256 - 1)/m)`, the multiplier with `mmu0 = k*m` (R17, R22). -/
def multiplier (m : Nat) : Nat := (2 ^ 256 - 1) / m

/-- The fields of a constructed modulus (R22): `2^192 <= m`, `mu = floor((2^512 - 1)/m)`, `mmu0 = k*m`,
`mmu1 = (k+1)*m - 2^256`. -/
abbrev Modulus.Valid (x : Modulus) : Prop :=
  2 ^ 192 ≤ x.m.toNat ∧ x.mu.toNat = recip x.m.toNat ∧ x.mmu0.toNat = multiplier x.m.toNat * x.m.toNat ∧
    x.mmu1.toNat + 2 ^ 256 = (multiplier x.m.toNat + 1) * x.m.toNat

/-- `M[i]` is valid and holds `x`. -/
abbrev State.modulusIs (s : State) (i : SlotIx) (x : Modulus) : Prop := s.M[i.toNat]? = some (some x)

/-- `R[i]` is valid and holds `x`. -/
abbrev State.regIs (s : State) (i : RegIx) (x : Residue) : Prop := s.R[i.toNat]? = some (some x)

/-- `E[i]` is valid and holds `x`. -/
abbrev State.baseIs (s : State) (i : SlotIx) (x : ExpBase) : Prop := s.E[i.toNat]? = some (some x)

/-- `M[i].v = 1`. -/
def State.hasModulus (s : State) (i : SlotIx) : Bool := ((s.M[i.toNat]?).getD none).isSome

/-- `R[i].v = 1`. -/
def State.hasReg (s : State) (i : RegIx) : Bool := ((s.R[i.toNat]?).getD none).isSome

/-- `E[i].v = 1`. -/
def State.hasBase (s : State) (i : SlotIx) : Bool := ((s.E[i.toNat]?).getD none).isSome

/-- Every valid modulus slot is a constructed modulus (R22). -/
abbrev State.ModuliValid (s : State) : Prop := ∀ o ∈ s.M, ∀ x ∈ o, Modulus.Valid x

/-- "Valid residues point at valid moduli" (R26), and a valid exponentiation base does (R37). -/
abbrev State.TagsValid (s : State) : Prop :=
  (∀ o ∈ s.R, ∀ x ∈ o, s.hasModulus x.tag = true) ∧ (∀ o ∈ s.E, ∀ x ∈ o, s.hasModulus x.tag = true)

/-- The error record: a legal code (R33: 0 to 8), and no command word while no fault is recorded (R211, R198, R36). -/
abbrev Status.Legal (t : Status) : Prop := t.err.toNat ≤ 8 ∧ (t.err = 0 → t.errcmd = 0)

/-- The response pins: all 0 outside a response cycle (R66); in one, a legal code, the flag of `STATUS`, and no data with a fault
(R74). -/
abbrev State.ResponseLegal (s : State) : Prop :=
  (s.rsp.valid = false → s.rsp = Response.idle) ∧
    (s.rsp.valid = true → s.rsp.err.toNat ≤ 8 ∧ s.rsp.flag = s.status.flag ∧ (s.rsp.err ≠ 0 → s.rsp.dout = 0))

/-- What holds after reset and after every command (R8, R22, R26, R33, R37, R66, R74). -/
abbrev State.Inv (s : State) : Prop :=
  s.params.Legal ∧ s.ModuliValid ∧ s.TagsValid ∧ s.status.Legal ∧ s.ResponseLegal

/-- The tables of a valid base, in terms of its entry `l[1]`, the base itself (R30, R161). -/
def ExpBase.TablesFor (b : ExpBase) (m : Nat) : Prop :=
  b.l[0] = 1 ∧ b.h[0] = 1 ∧
    ∀ j : Fin 16, b.l[j].toNat ≡ b.l[1].toNat ^ windowWeight j [MOD m] ∧
      b.h[j].toNat ≡ b.l[1].toNat ^ (windowWeight j * 2 ^ 32) [MOD m]

/-- Every valid base holds the tables of R30 for its modulus. -/
def State.TablesOk (s : State) : Prop :=
  ∀ o ∈ s.E, ∀ b ∈ o, ∀ slot, s.modulusIs b.tag slot → b.TablesFor slot.m.toNat

/-- The residue registers a command may write: the "Writes" column of R38. -/
def writesReg (i : Instr) : List RegIx :=
  match i with
  | .rset rd _ => [rd]
  | .rget rd => [rd]
  | .rcopy rd _ => [rd]
  | .red4 rd => [rd]
  | .red8 rd _ => [rd]
  | .add rd _ => [rd]
  | .sub rd _ => [rd]
  | .mul rd _ => [rd]
  | .neg rd => [rd]
  | .dbl rd => [rd]
  | .sqr rd => [rd]
  | .eq rd rs => [rd, rs]
  | .neq rd rs => [rd, rs]
  | .inv rd => [rd]
  | .exp rd => [rd]
  | .expp rd _ => [rd]
  | .nop | .clrerr | .modset _ | .modget _ | .muget _ | .mmu0get _ | .mmu1get _ | .expb _ _ => []

/-- The modulus slots a command may write (R23, R38). -/
def writesModulus (i : Instr) : List SlotIx :=
  match i with
  | .modset ms => [ms]
  | .nop | .clrerr | .modget _ | .muget _ | .mmu0get _ | .mmu1get _ | .rset _ _ | .rget _ | .rcopy _ _ | .red4 _ | .red8 _ _
  | .add _ _ | .sub _ _ | .neg _ | .dbl _ | .mul _ _ | .sqr _ | .eq _ _ | .neq _ _ | .inv _ | .exp _ | .expb _ _
  | .expp _ _ => []

/-- The exponentiation-base slots a command may write (R30, R38). -/
def writesBase (i : Instr) : List SlotIx :=
  match i with
  | .expb es _ => [es]
  | .nop | .clrerr | .modset _ | .modget _ | .muget _ | .mmu0get _ | .mmu1get _ | .rset _ _ | .rget _ | .rcopy _ _ | .red4 _
  | .red8 _ _ | .add _ _ | .sub _ _ | .neg _ | .dbl _ | .mul _ _ | .sqr _ | .eq _ _ | .neq _ _ | .inv _ | .exp _
  | .expp _ _ => []

/-- The three commands that write `FLAG` (R32). -/
def writesFlag (i : Instr) : Bool :=
  match i with
  | .eq _ _ => true
  | .neq _ _ => true
  | .inv _ => true
  | .nop | .clrerr | .modset _ | .modget _ | .muget _ | .mmu0get _ | .mmu1get _ | .rset _ _ | .rget _ | .rcopy _ _ | .red4 _
  | .red8 _ _ | .add _ _ | .sub _ _ | .neg _ | .dbl _ | .mul _ _ | .sqr _ | .exp _ | .expb _ _ | .expp _ _ => false

/-- The fault codes a command can report, in priority order (R212). -/
def possibleCodes (i : Instr) : List Nat :=
  match i with
  | .nop => []
  | .clrerr => []
  | .modset _ => [6, 8, 1, 2, 3]
  | .modget _ => [6, 7]
  | .muget _ => [6, 7]
  | .mmu0get _ => [6, 7]
  | .mmu1get _ => [6, 7]
  | .rset _ _ => [6, 7]
  | .rget _ => [6, 7]
  | .rcopy _ _ => [6, 7]
  | .red4 _ => [6, 7]
  | .red8 _ _ => [6, 7]
  | .add _ _ => [6, 7, 4]
  | .sub _ _ => [6, 7, 4]
  | .mul _ _ => [6, 7, 4]
  | .neg _ => [6, 7]
  | .dbl _ => [6, 7]
  | .sqr _ => [6, 7]
  | .eq _ _ => [6, 7]
  | .neq _ _ => [6, 7]
  | .inv _ => [6, 7]
  | .exp _ => [6, 7]
  | .expb _ _ => [6, 7]
  | .expp _ _ => [6, 7]

/-- The elements a command reads as sources are valid; pure destinations are not tested (R206). -/
def sourcesValid (i : Instr) (s : State) : Bool :=
  match i with
  | .nop => true
  | .clrerr => true
  | .modset _ => true
  | .modget ms => s.hasModulus ms
  | .muget ms => s.hasModulus ms
  | .mmu0get ms => s.hasModulus ms
  | .mmu1get ms => s.hasModulus ms
  | .rset _ ms => s.hasModulus ms
  | .red8 _ ms => s.hasModulus ms
  | .rget rd => s.hasReg rd
  | .rcopy _ rs => s.hasReg rs
  | .red4 rd => s.hasReg rd
  | .add rd rs => s.hasReg rd && s.hasReg rs
  | .sub rd rs => s.hasReg rd && s.hasReg rs
  | .mul rd rs => s.hasReg rd && s.hasReg rs
  | .neg rd => s.hasReg rd
  | .dbl rd => s.hasReg rd
  | .sqr rd => s.hasReg rd
  | .eq rd rs => s.hasReg rd && s.hasReg rs
  | .neq rd rs => s.hasReg rd && s.hasReg rs
  | .inv rd => s.hasReg rd
  | .exp rd => s.hasReg rd
  | .expb _ rs => s.hasReg rs
  | .expp _ es => s.hasBase es

/-- Two register contents of the same class: both invalid, or the same tag and raw values congruent modulo its modulus. -/
def sameClass (M : List (Option Modulus)) (a b : Option Residue) : Prop :=
  match a, b with
  | none, none => True
  | some x, some y => x.tag = y.tag ∧ ∀ slot, M[x.tag.toNat]? = some (some slot) → x.r.toNat ≡ y.r.toNat [MOD slot.m.toNat]
  | none, some _ => False
  | some _, none => False

/-- Two bases whose tables hold the same classes. -/
def sameTables (M : List (Option Modulus)) (a b : Option ExpBase) : Prop :=
  match a, b with
  | none, none => True
  | some x, some y =>
    x.tag = y.tag ∧ ∀ slot, M[x.tag.toNat]? = some (some slot) → ∀ j : Fin 16,
      x.l[j].toNat ≡ y.l[j].toNat [MOD slot.m.toNat] ∧ x.h[j].toNat ≡ y.h[j].toNat [MOD slot.m.toNat]
  | none, some _ => False
  | some _, none => False

/-- Two states that differ only in which representative of its class a register or a table entry holds (R192, U4). -/
def State.SameClasses (s t : State) : Prop :=
  s.M = t.M ∧ List.Forall₂ (sameClass s.M) s.R t.R ∧ List.Forall₂ (sameTables s.M) s.E t.E ∧
    s.status = t.status ∧ s.rsp = t.rsp ∧ s.cmdWord = t.cmdWord ∧ s.cmdDin = t.cmdDin ∧ s.pending = t.pending ∧
    s.cmdIndex = t.cmdIndex

/-- A safe step: the machine answers a next state, no fault and no refusal of the model stops it (R213, R244). -/
def SafeStep (s : State) : Prop := ∃ t, step s = .next t

end Sys2Proof.Machine
end

