-- ==== Sys2Proof/Certificates/Slice0/Obligations.lean ====
section
/-! DEFINITION. The statements for the provers. Each docstring names the rules of `spec/` that the statement comes from. -/

namespace Sys2Proof.Claims

open Sys2Proof Sys2Proof.Machine

/-- The state `s` with the response of a command that completed and drives `dout` (R74). -/
def completed (s : State) (dout : W320) : State :=
  { s with rsp := { valid := true, err := 0, flag := s.status.flag, dout := dout } }

/-- The state `s` after a fault with code `code`: nothing but the response and, if no fault is recorded, the record (R210, R211). -/
def faulted (s : State) (code : BitVec 4) : State :=
  { s with
    status := if s.status.err = 0 then { s.status with err := code, errcmd := s.cmdWord } else s.status
    rsp := { valid := true, err := code, flag := s.status.flag, dout := 0 } }

/-- `R[rd] <- (v = 1, tag, r)`. -/
def withReg (s : State) (rd : RegIx) (tag : SlotIx) (r : W256) : State :=
  { s with R := s.R.set rd.toNat (some { tag := tag, r := r }) }

/-- `FLAG <- b`. -/
def withFlag (s : State) (b : Bool) : State := { s with status := { s.status with flag := b } }

/-- `DIN4`: the low 256 bits of the data input (R13). -/
def din4 (s : State) : Nat := s.cmdDin.toNat % 2 ^ 256

/-- The state in which a command that the host issues is run: word and data sampled, the host's position advanced (R66, R196). -/
def issued (s : State) (word : CmdWord) (din : W512) (rest : List HostMove) : State :=
  { s with cmdWord := word, cmdDin := din, pending := rest, cmdIndex := s.cmdIndex + 1 }

/-- The reset state of a block with as many slots as `s`, the host's side kept (R231, R8). -/
def resetOf (s : State) (rest : List HostMove) : State :=
  { M := List.replicate s.M.length none
    R := List.replicate s.R.length none
    E := List.replicate s.E.length none
    status := { flag := false, err := 0, errcmd := 0 }
    rsp := { valid := false, err := 0, flag := false, dout := 0 }
    cmdWord := 0
    cmdDin := 0
    pending := rest
    cmdIndex := s.cmdIndex }

/-- The opcode map: `op` and `mask` of each row (R70). -/
def opcodeMap : List (BitVec 8 × CmdWord) :=
  [(0x00, 0xFFFFFFFF), (0x01, 0xFFFFFFFF), (0x10, 0xFFFFC3FF), (0x11, 0xFFFFC3FF), (0x12, 0xFFFFC3FF), (0x13, 0xFFFFC3FF),
   (0x14, 0xFFFFC3FF), (0x20, 0xFF07C3FF), (0x21, 0xFF07FFFF), (0x22, 0xFF003FFF), (0x23, 0xFF07FFFF), (0x24, 0xFF07C3FF),
   (0x30, 0xFF003FFF), (0x31, 0xFF003FFF), (0x32, 0xFF07FFFF), (0x33, 0xFF07FFFF), (0x34, 0xFF003FFF), (0x35, 0xFF07FFFF),
   (0x38, 0xFF003FFF), (0x39, 0xFF003FFF), (0x40, 0xFF07FFFF), (0x50, 0xFF07FFFF), (0x51, 0xFFF83C3F), (0x52, 0xFF07FC3F)]

/-- The value `add256(s, z, x)` of R125, over integers. -/
def addValue (slot : Modulus) (z x : Nat) : Nat :=
  if z + x < 2 ^ 256 then z + x
  else if z + x - 2 ^ 256 < slot.mmu0.toNat then z + x - slot.mmu0.toNat
  else z + x - 2 ^ 256 - slot.mmu1.toNat

/-- The value `sub256(s, z, x)` of R126, over integers. -/
def subValue (slot : Modulus) (z x : Nat) : Nat :=
  if x ≤ z then z - x
  else if z + 2 ^ 256 - x + slot.mmu0.toNat < 2 ^ 256 then z + 2 ^ 256 - x + slot.mmu1.toNat
  else z + slot.mmu0.toNat - x

/-- The value `neg256(s, z)` of R127, over integers. -/
def negValue (slot : Modulus) (z : Nat) : Nat :=
  if z ≤ slot.mmu0.toNat then slot.mmu0.toNat - z else slot.mmu1.toNat + 2 ^ 256 - z

/-- A command's own preconditions, after the index and source checks (R207, R201, R203). -/
def ownPrecondition (i : Instr) (s : State) : Prop :=
  match i with
  | .modset ms => s.hasModulus ms = false ∧ 2 ^ 192 ≤ din4 s
  | .add rd rs | .sub rd rs =>
    ∀ z x mz mx, s.regIs rd z → s.regIs rs x → s.modulusIs z.tag mz → s.modulusIs x.tag mx → z.tag = x.tag ∨ mz.m = mx.m
  | .mul rd rs =>
    ∀ z x mz mx, s.regIs rd z → s.regIs rs x → s.modulusIs z.tag mz → s.modulusIs x.tag mx → z.tag = x.tag ∨ mz.m = mx.m
  | .nop | .clrerr | .modget _ | .muget _ | .mmu0get _ | .mmu1get _ | .rset _ _ | .rget _ | .rcopy _ _ | .red4 _ | .red8 _ _
  | .neg _ | .dbl _ | .sqr _ | .eq _ _ | .neq _ _ | .inv _ | .exp _ | .expb _ _ | .expp _ _ => True

/-- `a*r + b*m = u` and `c*r + d*m = v` (R152). -/
def Bezout (m r : Nat) (g : GcdState) : Prop :=
  g.a * r + g.b * m = g.u ∧ g.c * r + g.d * m = g.v

/-- The canonical representative of a raw value (R111). -/
def canon (slot : Modulus) (r : W256) : W256 := BitVec.ofNat 256 (r.toNat % slot.m.toNat)

end Sys2Proof.Claims

section

open Sys2Proof Sys2Proof.Machine Sys2Proof.Claims

/-! ### Encoding -/

/-- R67, R68, R70: decoding the word of a command gives the command back, every operand at every value of its field. -/
def Obligations.DecodeOfEncodeIsTheCommand : Prop := ∀ i : Instr, decode (encode i) = .ok i

/-- R71, R72: a legal word has no bit that decoding drops: it is the encoding of the command it decodes to. -/
def Obligations.LegalWordIsTheEncodingOfItsCommand : Prop := ∀ (w : CmdWord) (i : Instr), decode w = .ok i → encode i = w

/-- R68: "A word `w` spells command `c` exactly when `(w and mask(c)) = match(c)`", with `match = op*2^24`. -/
def Obligations.WordSpellsACommandExactlyWhenMaskMatches : Prop :=
  ∀ (w : CmdWord), ∀ row ∈ opcodeMap,
    (w &&& row.2 = BitVec.ofNat 32 (row.1.toNat * 2 ^ 24) ↔ ∃ i, decode w = .ok i ∧ opcode i = row.1)

/-- R77: the worked encodings decode to the commands they stand for, and the three words it calls illegal do not decode. -/
def Obligations.WorkedEncodingsDecode : Prop :=
  decode 0x00000000 = .ok .nop ∧ decode 0x01000000 = .ok .clrerr ∧ decode 0x10000000 = .ok (.modset 0) ∧
    decode 0x10000C00 = .ok (.modset 3) ∧ decode 0x12000400 = .ok (.muget 1) ∧ decode 0x20000000 = .ok (.rset 0 0) ∧
    decode 0x20280800 = .ok (.rset 5 2) ∧ decode 0x21080000 = .ok (.rget 1) ∧ decode 0x22080000 = .ok (.rcopy 1 0) ∧
    decode 0x30194000 = .ok (.add 3 5) ∧ decode 0x31108000 = .ok (.sub 2 2) ∧ decode 0x34004000 = .ok (.mul 0 1) ∧
    decode 0x35F80000 = .ok (.sqr 31) ∧ decode 0x38004000 = .ok (.eq 0 1) ∧ decode 0x40000000 = .ok (.inv 0) ∧
    decode 0x50100000 = .ok (.exp 2) ∧ decode 0x51008040 = .ok (.expb 1 2) ∧ decode 0x52200040 = .ok (.expp 4 1) ∧
    decode 0x30194001 = .error (.unusedFieldNotZero 0x30) ∧ decode 0x32100400 = .error (.unusedFieldNotZero 0x32) ∧
    decode 0x36000000 = .error (.unassignedOpcode 0x36)

/-! ### The step -/

/-- R51, R66, R71, R196: when the host's next move is a legal word, the step is `exec` of the command it decodes to, at the state
with the word and `DIN` sampled, that move taken off the host's list and the host's position advanced by one. -/
def Obligations.StepRunsTheDecodedCommand : Prop :=
  ∀ (s : State) (w : CmdWord) (d : W512) (rest : List HostMove) (i : Instr),
    s.pending = .issue w d :: rest → decode w = .ok i → step s = exec i (issued s w d rest)

/-- R72, R204: a word that does not decode changes nothing but the error record and is answered with `E_ILLEGAL`, code 5. -/
def Obligations.IllegalWordIsAnsweredWithIllegal : Prop :=
  ∀ (s : State) (w : CmdWord) (d : W512) (rest : List HostMove) (e : DecodeError),
    s.pending = .issue w d :: rest → decode w = .error e → step s = .next (faulted (issued s w d rest) 5)

/-- R36, R231: after reset no element is valid and `STATUS` and the response pins are 0. That the sampled command is then 0 and that
the host's moves and position are kept is the model's choice (entries 3, 4). -/
def Obligations.ResetInvalidatesEverything : Prop :=
  ∀ (s : State) (rest : List HostMove), s.pending = .reset :: rest → step s = .next (resetOf s rest)

/-- R66, R214, R221: with no move to come (a step of the model's own, entry 6) the block holds all its state and the response pins
are 0. -/
def Obligations.IdleHoldsTheState : Prop :=
  ∀ s : State, s.pending = [] →
    step s = .next { s with rsp := { valid := false, err := 0, flag := false, dout := 0 } }

/-- R213, R244: there is no state in which the block stops. -/
def Obligations.NoStateStopsTheBlock : Prop := ∀ s : State, SafeStep s

/-! ### Invariants -/

/-- R8, R22, R26, R36, R37: the invariant holds after reset, for every legal choice of the storage sizes. -/
def Obligations.ResetMeetsTheInvariant : Prop :=
  State.reset.Inv ∧ ∀ p : Params, p.Legal → (State.resetWith p).Inv

/-- R8, R22, R26, R33, R37, R74: every step keeps the invariant. -/
def Obligations.StepKeepsTheInvariant : Prop := ∀ s t : State, s.Inv → step s = .next t → t.Inv

/-- R30, R166: every step keeps the tables of every valid base what R30 says they are. -/
def Obligations.StepKeepsTheBaseTables : Prop :=
  ∀ s t : State, s.Inv → s.TablesOk → step s = .next t → t.TablesOk

/-- R23: a slot with `v = 1` is never written again until reset; only `MODSET` writes a slot, and on a slot with `v = 1` it answers
`E_MOD_BUSY`, code 8, and changes nothing but the error record. -/
def Obligations.ModulusSlotsAreWriteOnce : Prop :=
  (∀ (s t : State) (ms : SlotIx) (x : Modulus), s.modulusIs ms x → (∀ rest, s.pending ≠ .reset :: rest) → step s = .next t →
    t.modulusIs ms x) ∧
    (∀ (i : Instr) (s t : State), exec i s = .next t → t.M ≠ s.M → ∃ ms, i = .modset ms) ∧
    ∀ (ms : SlotIx) (s : State) (x : Modulus), s.modulusIs ms x → exec (.modset ms) s = .next (faulted s 8)

/-! ### Faults -/

/-- R210: a command that faults changes no element of `M`, `R`, `E` and not `FLAG`; its response has the old `FLAG` and no data; what
it may change of `STATUS` is the record, and only when no fault is recorded. -/
def Obligations.FaultChangesOnlyTheErrorRecord : Prop :=
  ∀ (i : Instr) (s t : State), exec i s = .next t → t.rsp.err ≠ 0 → t = faulted s t.rsp.err

/-- R211: a fault is recorded with the command word if no fault is recorded, else the record is kept; "A completed command never
changes `ERR` or `ERRCMD`, except `CLRERR`, which clears both." For every word, the illegal ones too. -/
def Obligations.ErrorRecordKeepsTheFirstFault : Prop :=
  ∀ (s t : State), runAccepted s = .next t →
    (t.rsp.err ≠ 0 → s.status.err = 0 → t.status.err = t.rsp.err ∧ t.status.errcmd = s.cmdWord) ∧
      (t.rsp.err ≠ 0 → s.status.err ≠ 0 → t.status = s.status) ∧
      (t.rsp.err = 0 → decode s.cmdWord = .ok .clrerr → t.status.err = 0 ∧ t.status.errcmd = 0) ∧
      (t.rsp.err = 0 → decode s.cmdWord ≠ .ok .clrerr → t.status.err = s.status.err ∧ t.status.errcmd = s.status.errcmd)

/-- R205: `E_INDEX` (code 6) is answered exactly when an index field the command uses is out of range. -/
def Obligations.IndexFaultExactlyWhenOutOfRange : Prop :=
  ∀ (i : Instr) (s : State),
    (i.wf s.params = false → exec i s = .next (faulted s 6)) ∧
      ∀ t, exec i s = .next t → i.wf s.params = true → t.rsp.err ≠ 6

/-- R206, R209: in range, a source whose valid bit is clear is answered with `E_INVALID` (code 7), whatever else is wrong. -/
def Obligations.InvalidSourceFaults : Prop :=
  ∀ (i : Instr) (s : State), i.wf s.params = true → sourcesValid i s = false → exec i s = .next (faulted s 7)

/-- R201, R207, R209: `MODSET` to a valid slot is answered with `E_MOD_BUSY` (8) whatever `DIN` holds; to an invalid one with
`E_MOD_RANGE` (1) when the modulus is below `2^192`. -/
def Obligations.ModsetFaultsOnBusySlotThenOnSmallModulus : Prop :=
  ∀ (ms : SlotIx) (s : State), ms.toNat < s.M.length →
    (s.hasModulus ms = true → exec (.modset ms) s = .next (faulted s 8)) ∧
      (s.hasModulus ms = false → din4 s < 2 ^ 192 → exec (.modset ms) s = .next (faulted s 1))

/-- R203: `ADD`, `SUB` and `MUL` on residues whose moduli differ by tag and by words are answered with `E_INCOMPAT` (4). -/
def Obligations.DifferentModuliAreIncompatible : Prop :=
  ∀ (rd rs : RegIx) (s : State) (z x : Residue) (mz mx : Modulus), s.regIs rd z → s.regIs rs x → s.modulusIs z.tag mz →
    s.modulusIs x.tag mx → z.tag ≠ x.tag → mz.m ≠ mx.m →
    exec (.add rd rs) s = .next (faulted s 4) ∧ exec (.sub rd rs) s = .next (faulted s 4) ∧
      exec (.mul rd rs) s = .next (faulted s 4)

/-- R212: a command reports no code outside its row of the fault summary, and an unassigned or malformed word reports code 5. -/
def Obligations.CommandReportsOnlyItsOwnCodes : Prop :=
  (∀ (i : Instr) (s t : State), exec i s = .next t → t.rsp.err = 0 ∨ t.rsp.err.toNat ∈ possibleCodes i) ∧
    ∀ (s t : State) (e : DecodeError), decode s.cmdWord = .error e → runAccepted s = .next t → t.rsp.err = 5

/-- R200 to R209: in a state that meets R22 and R26, a command completes exactly when its indices are in range, its sources are
valid and its own precondition holds. -/
def Obligations.CommandCompletesExactlyWhenItsChecksPass : Prop :=
  ∀ (i : Instr) (s t : State), s.ModuliValid → s.TagsValid → exec i s = .next t →
    (t.rsp.err = 0 ↔ i.wf s.params = true ∧ sourcesValid i s = true ∧ ownPrecondition i s)

/-! ### Frames -/

/-- R23, R30, R38: a command changes no element of `R`, `M`, `E` but those of its "Writes" entry: only `MODSET ms` changes `M`, and
only `M[ms]`; only `EXPB es` changes `E`, and only `E[es]`. -/
def Obligations.UnnamedElementsAreUnchanged : Prop :=
  ∀ (i : Instr) (s t : State), exec i s = .next t →
    ∀ k : Nat, ((∀ r ∈ writesReg i, r.toNat ≠ k) → t.R[k]? = s.R[k]?) ∧
      ((∀ r ∈ writesModulus i, r.toNat ≠ k) → t.M[k]? = s.M[k]?) ∧
      ((∀ r ∈ writesBase i, r.toNat ≠ k) → t.E[k]? = s.E[k]?)

/-- R32: no command but `EQ`, `NEQ` and `INV` writes `FLAG`; the response repeats `FLAG` as it is after the command (R74). -/
def Obligations.OnlyCompareAndInverseWriteTheFlag : Prop :=
  ∀ (i : Instr) (s t : State), exec i s = .next t →
    (writesFlag i = false → t.status.flag = s.status.flag) ∧ t.rsp.flag = t.status.flag ∧ t.rsp.valid = true

/-- R8, R31, R52: no command changes the storage sizes, the sampled command (the model's own field, entry 4), or what the host will
do next (entry 3). -/
def Obligations.CommandsLeaveSizesAndHostAlone : Prop :=
  ∀ (i : Instr) (s t : State), exec i s = .next t →
    t.params = s.params ∧ t.cmdWord = s.cmdWord ∧ t.cmdDin = s.cmdDin ∧ t.pending = s.pending ∧ t.cmdIndex = s.cmdIndex

/-- R56: a command drives no more words of `DOUT` than its row says; the words above are 0. -/
def Obligations.DoutHasNoMoreWordsThanItsRow : Prop :=
  ∀ (i : Instr) (s t : State), exec i s = .next t → t.rsp.dout.toNat < 2 ^ (64 * doutWords i)

/-- R56: "`DIN` words a command does not read are ignored, whatever they hold." -/
def Obligations.UnreadDinWordsAreIgnored : Prop :=
  ∀ (i : Instr) (s t : State) (d : W512), s.cmdDin.toNat % 2 ^ (64 * dinWords i) = d.toNat % 2 ^ (64 * dinWords i) →
    exec i s = .next t → exec i { s with cmdDin := d } = .next { t with cmdDin := d }

/-! ### System and transfer commands -/

/-- R197, R198: `NOP`, the all-zero word, does nothing; `CLRERR` clears `ERR` and `ERRCMD` and changes no other state. -/
def Obligations.SystemCommandsTouchOnlyTheRecord : Prop :=
  encode .nop = 0x00000000 ∧ encode .clrerr = 0x01000000 ∧
    ∀ s : State, exec .nop s = .next (completed s 0) ∧
      exec .clrerr s = .next (completed { s with status := { s.status with err := 0, errcmd := 0 } } 0)

/-- R187, R189: `RSET` stores the words as given with the slot as tag, and `RCOPY` copies tag and raw words as they stand, whatever
the destination held; `RCOPY` of a register to itself changes nothing. -/
def Obligations.RsetAndRcopyStoreRawWords : Prop :=
  (∀ (rd : RegIx) (ms : SlotIx) (s : State) (x : Modulus), rd.toNat < s.R.length → s.modulusIs ms x →
    exec (.rset rd ms) s = .next (completed (withReg s rd ms (BitVec.ofNat 256 (din4 s))) 0)) ∧
    (∀ (rd rs : RegIx) (s : State) (x : Residue), rd.toNat < s.R.length → s.regIs rs x →
      exec (.rcopy rd rs) s = .next (completed (withReg s rd x.tag x.r) 0)) ∧
    ∀ (rd : RegIx) (s : State) (x : Residue), s.regIs rd x → exec (.rcopy rd rd) s = .next (completed s 0)

/-! ### The reciprocal generator and modulus construction -/

/-- R90: `recip(m)` is `floor((2^512 - 1)/m)`; its two cases, its bounds, and the smallest and largest modulus. -/
def Obligations.ReciprocalMeetsItsContract : Prop :=
  ∀ m : Nat, 2 ^ 192 ≤ m → m < 2 ^ 256 →
    recip m = (2 ^ 512 - 1) / m ∧
      ((∃ k, m = 2 ^ k) → recip m = 2 ^ 512 / m - 1 ∧ recip m * m + m = 2 ^ 512) ∧
      ((¬ ∃ k, m = 2 ^ k) → recip m = 2 ^ 512 / m ∧ recip m * m + m ≠ 2 ^ 512) ∧
      recip m * m < 2 ^ 512 ∧ 2 ^ 512 ≤ recip m * m + m ∧ recip m < 2 ^ 320 ∧ 2 ^ 256 + 1 ≤ recip m ∧
      recip (2 ^ 192) = 2 ^ 320 - 1 ∧ recip (2 ^ 256 - 1) = 2 ^ 256 + 1

/-- R91: the detection expression finds exactly the powers of two, and for those the tuple is the reciprocal. -/
def Obligations.PowerOfTwoEdgeGivesTheReciprocal : Prop :=
  ∀ m : W256, 2 ^ 192 ≤ m.toNat →
    (isPowerOfTwo m = true ↔ ∃ k, m.toNat = 2 ^ k) ∧
      (isPowerOfTwo m = true → m.toNat = 2 ^ (255 - clz64 (wordOf m 3)) ∧ recipPowerOfTwo m = BitVec.ofNat 320 (recip m.toNat))

/-- R95: modulus construction never takes the `E_MMU0` or `E_MMU1` exit, and its fields are those of R22. -/
def Obligations.ModulusConstructionNeverCorrupts : Prop :=
  ∀ m : W256,
    (m.toNat < 2 ^ 192 → newmod m = .error .modRange) ∧
      (2 ^ 192 ≤ m.toNat → ∃ x, newmod m = .ok x ∧ x.m = m ∧ x.Valid)

/-- R22: what the fields of a valid slot satisfy. -/
def Obligations.ValidSlotSatisfiesItsInequalities : Prop :=
  ∀ x : Modulus, x.Valid →
    (wordOf x.mu 4).toNat = multiplier x.m.toNat ∧ x.mu.toNat * x.m.toNat < 2 ^ 512 ∧
      2 ^ 512 ≤ x.mu.toNat * x.m.toNat + x.m.toNat ∧ 2 ^ 256 ≤ x.mmu0.toNat + x.m.toNat ∧ x.mmu1.toNat < x.m.toNat ∧
      x.m.toNat ≤ x.mmu0.toNat ∧ 2 ^ 256 - x.mmu0.toNat ≤ x.m.toNat

/-- R96, R94, R90: `MODSET` on an invalid slot with a modulus of at least `2^192` completes and fills the slot. -/
def Obligations.ModsetFillsTheSlot : Prop :=
  ∀ (ms : SlotIx) (s : State), ms.toNat < s.M.length → s.hasModulus ms = false → 2 ^ 192 ≤ din4 s →
    exec (.modset ms) s =
      .next (completed { s with M := s.M.set ms.toNat (some
        { m := BitVec.ofNat 256 (din4 s)
          mu := BitVec.ofNat 320 ((2 ^ 512 - 1) / din4 s)
          mmu0 := BitVec.ofNat 256 ((2 ^ 256 - 1) / din4 s * din4 s)
          mmu1 := BitVec.ofNat 256 (((2 ^ 256 - 1) / din4 s + 1) * din4 s - 2 ^ 256) }) } 0)

/-- R97 to R100: the four read-outs drive their field of the slot and change no state. -/
def Obligations.ReadOutsDriveTheSlotFields : Prop :=
  ∀ (ms : SlotIx) (s : State) (x : Modulus), s.modulusIs ms x →
    exec (.modget ms) s = .next (completed s (BitVec.ofNat 320 x.m.toNat)) ∧
      exec (.muget ms) s = .next (completed s x.mu) ∧
      exec (.mmu0get ms) s = .next (completed s (BitVec.ofNat 320 x.mmu0.toNat)) ∧
      exec (.mmu1get ms) s = .next (completed s (BitVec.ofNat 320 x.mmu1.toNat))

/-! ### The reducers -/

/-- R111: `reduce4` is the remainder; its quotient estimate is at most the quotient and at most two below it. -/
def Obligations.ReduceFourIsTheRemainder : Prop :=
  ∀ (slot : Modulus) (r : W256), slot.Valid →
    (reduce4 slot r).toNat = r.toNat % slot.m.toNat ∧
      (wordOf r 3).toNat * (wordOf slot.mu 4).toNat / 2 ^ 64 * slot.m.toNat ≤ r.toNat ∧
      r.toNat < (wordOf r 3).toNat * (wordOf slot.mu 4).toNat / 2 ^ 64 * slot.m.toNat + 3 * slot.m.toNat ∧
      (2 ^ 255 < slot.m.toNat → (wordOf r 3).toNat * (wordOf slot.mu 4).toNat / 2 ^ 64 = 0)

/-- R114, R115 b: the quotient estimate of `reduce8` is at most the quotient and at most two below it, and the result is
congruent to the operand; an operand below `2^192` comes back unchanged. -/
def Obligations.ReduceEightKeepsTheClass : Prop :=
  ∀ (slot : Modulus) (x : W512), slot.Valid →
    x.toNat / 2 ^ 192 * slot.mu.toNat / 2 ^ 320 ≤ x.toNat / slot.m.toNat ∧
      x.toNat / slot.m.toNat ≤ x.toNat / 2 ^ 192 * slot.mu.toNat / 2 ^ 320 + 2 ∧
      x.toNat < x.toNat / 2 ^ 192 * slot.mu.toNat / 2 ^ 320 * slot.m.toNat + 3 * slot.m.toNat ∧
      (reduce8 slot x).toNat ≡ x.toNat [MOD slot.m.toNat] ∧
      (x.toNat < 2 ^ 192 → (reduce8 slot x).toNat = x.toNat)

/-- R116, R188, R111: `RED4` and `RGET` leave `R[rd].r mod m` in the register; `RGET` also puts it on `DOUT[0..3]`, with 0 in
`DOUT[4]`. -/
def Obligations.RedFourAndRgetCanonicalise : Prop :=
  ∀ (rd : RegIx) (s : State) (z : Residue) (slot : Modulus), s.regIs rd z → s.modulusIs z.tag slot → slot.Valid →
    exec (.red4 rd) s = .next (completed (withReg s rd z.tag (canon slot z.r)) 0) ∧
      exec (.rget rd) s =
        .next (completed (withReg s rd z.tag (canon slot z.r)) (BitVec.ofNat 320 (z.r.toNat % slot.m.toNat)))

/-- R117: `RED8` stores `reduce8` of all eight `DIN` words with the slot as tag, whatever the register held. -/
def Obligations.RedEightReducesTheWholeDataInput : Prop :=
  ∀ (rd : RegIx) (ms : SlotIx) (s : State) (slot : Modulus), rd.toNat < s.R.length → s.modulusIs ms slot →
    exec (.red8 rd ms) s = .next (completed (withReg s rd ms (reduce8 slot s.cmdDin)) 0)

/-! ### The ring ALU -/

/-- R125, R126, R128, R129, R134: `ADD` and `SUB` on compatible residues store the value of the rule under the destination's tag,
with the fields of the destination's slot. -/
def Obligations.AddAndSubFollowTheirRules : Prop :=
  ∀ (rd rs : RegIx) (s : State) (z x : Residue) (mz mx : Modulus), s.regIs rd z → s.regIs rs x → s.modulusIs z.tag mz →
    s.modulusIs x.tag mx → z.tag = x.tag ∨ mz.m = mx.m →
    exec (.add rd rs) s = .next (completed (withReg s rd z.tag (BitVec.ofNat 256 (addValue mz z.r.toNat x.r.toNat))) 0) ∧
      exec (.sub rd rs) s = .next (completed (withReg s rd z.tag (BitVec.ofNat 256 (subValue mz z.r.toNat x.r.toNat))) 0)

/-- R127, R130, R131: `NEG` and `DBL` store the values of their rules. -/
def Obligations.NegAndDblFollowTheirRules : Prop :=
  ∀ (rd : RegIx) (s : State) (z : Residue) (slot : Modulus), s.regIs rd z → s.modulusIs z.tag slot →
    exec (.neg rd) s = .next (completed (withReg s rd z.tag (BitVec.ofNat 256 (negValue slot z.r.toNat))) 0) ∧
      exec (.dbl rd) s = .next (completed (withReg s rd z.tag (BitVec.ofNat 256 (addValue slot z.r.toNat z.r.toNat))) 0)

/-- R132: sums, differences and negatives are of the right class, and the values of R125 to R127 fit 256 bits. -/
def Obligations.AdditiveResultsHaveTheRightClass : Prop :=
  ∀ (slot : Modulus) (z x : W256), slot.Valid →
    (add256 slot z x).toNat ≡ z.toNat + x.toNat [MOD slot.m.toNat] ∧
      ((sub256 slot z x).toNat : Int) ≡ (z.toNat : Int) - x.toNat [ZMOD slot.m.toNat] ∧
      ((neg256 slot z).toNat : Int) ≡ -(z.toNat : Int) [ZMOD slot.m.toNat] ∧
      addValue slot z.toNat x.toNat < 2 ^ 256 ∧ subValue slot z.toNat x.toNat < 2 ^ 256 ∧ negValue slot z.toNat < 2 ^ 256

/-- R140, R142, R143: `MUL` and `SQR` store `reduce8` of the exact product, `MUL` under the destination's tag. -/
def Obligations.MulAndSqrReduceTheExactProduct : Prop :=
  (∀ (rd rs : RegIx) (s : State) (z x : Residue) (mz mx : Modulus), s.regIs rd z → s.regIs rs x → s.modulusIs z.tag mz →
    s.modulusIs x.tag mx → z.tag = x.tag ∨ mz.m = mx.m →
    exec (.mul rd rs) s =
      .next (completed (withReg s rd z.tag (reduce8 mz (BitVec.ofNat 512 (z.r.toNat * x.r.toNat)))) 0)) ∧
    ∀ (rd : RegIx) (s : State) (z : Residue) (slot : Modulus), s.regIs rd z → s.modulusIs z.tag slot →
      exec (.sqr rd) s =
        .next (completed (withReg s rd z.tag (reduce8 slot (BitVec.ofNat 512 (z.r.toNat * z.r.toNat)))) 0)

/-- R140, R141: the schoolbook product and the squaring shortcut are the exact integer products, which fit 512 bits; `mulmod` is
symmetric, word for word, and `sqrmod` is `mulmod` of a value with itself. -/
def Obligations.ProductsAreExact : Prop :=
  ∀ (slot : Modulus) (a b : W256),
    schoolbook a b = a.toNat * b.toNat ∧ squareShortcut a = a.toNat * a.toNat ∧ a.toNat * b.toNat < 2 ^ 512 ∧
      mulmod slot a b = reduce8 slot (BitVec.ofNat 512 (schoolbook a b)) ∧ mulmod slot a b = mulmod slot b a ∧
      sqrmod slot a = reduce8 slot (BitVec.ofNat 512 (squareShortcut a)) ∧ sqrmod slot a = mulmod slot a a

/-- R236: the cases in which two fields name the same register. -/
def Obligations.AliasedOperandsAreReadBeforeTheWrite : Prop :=
  ∀ (rd : RegIx) (s : State) (z : Residue) (slot : Modulus), s.regIs rd z → s.modulusIs z.tag slot → slot.Valid →
    exec (.add rd rd) s = exec (.dbl rd) s ∧
      exec (.sub rd rd) s = .next (completed (withReg s rd z.tag 0) 0) ∧
      exec (.mul rd rd) s = exec (.sqr rd) s ∧
      exec (.eq rd rd) s = .next (completed (withFlag (withReg s rd z.tag (canon slot z.r)) true) 0) ∧
      exec (.neq rd rd) s = .next (completed (withFlag (withReg s rd z.tag (canon slot z.r)) false) 0) ∧
      exec (.rcopy rd rd) s = .next (completed s 0)

/-- R15: the `adc` and `sbb` chains over the four words are the exact 256-bit sum and difference; their carry and borrow are the
ones the additive commands test. -/
def Obligations.WordChainsAddAndSubtractExactly : Prop :=
  ∀ z x : W256,
    wordsVal (adcChain (wordList4 z) (wordList4 x) false).1 +
        2 ^ 256 * (adcChain (wordList4 z) (wordList4 x) false).2.toNat = z.toNat + x.toNat ∧
      (adcChain (wordList4 z) (wordList4 x) false).2 = carry256 z x ∧
      (wordsVal (sbbChain (wordList4 z) (wordList4 x) false).1 : Int) -
        2 ^ 256 * (sbbChain (wordList4 z) (wordList4 x) false).2.toNat = (z.toNat : Int) - x.toNat ∧
      (sbbChain (wordList4 z) (wordList4 x) false).2 = borrow256 z x

/-- R191: the ring laws under canonicalisation (which is what `EQ` compares), for every modulus in range. -/
def Obligations.RingLawsHoldUnderCanonicalisation : Prop :=
  ∀ (slot : Modulus) (a b c : W256), slot.Valid →
    reduce4 slot (add256 slot a b) = reduce4 slot (add256 slot b a) ∧
      reduce4 slot (add256 slot (add256 slot a b) c) = reduce4 slot (add256 slot a (add256 slot b c)) ∧
      reduce4 slot (mulmod slot (mulmod slot a b) c) = reduce4 slot (mulmod slot a (mulmod slot b c)) ∧
      reduce4 slot (mulmod slot a (add256 slot b c)) = reduce4 slot (add256 slot (mulmod slot a b) (mulmod slot a c)) ∧
      reduce4 slot (add256 slot a slot.m) = reduce4 slot a ∧
      reduce4 slot (add256 slot a (neg256 slot a)) = 0 ∧
      reduce4 slot (neg256 slot (neg256 slot a)) = reduce4 slot a ∧
      reduce4 slot (sub256 slot a b) = reduce4 slot (neg256 slot (sub256 slot b a)) ∧
      reduce4 slot (mulmod slot a 1) = reduce4 slot a

/-! ### Comparison -/

/-- R180, R181, R182: with equal modulus words `EQ` and `NEQ` canonicalise both registers and write whether the classes are
equal, and its complement; with different modulus words the answer is "not equal", no register changes, and it is no fault. -/
def Obligations.CompareDecidesEqualityOfClasses : Prop :=
  ∀ (rd rs : RegIx) (s : State) (z x : Residue) (mz mx : Modulus), s.regIs rd z → s.regIs rs x → s.modulusIs z.tag mz →
    s.modulusIs x.tag mx → mz.Valid → mx.Valid →
    (mz.m = mx.m →
      exec (.eq rd rs) s =
          .next (completed (withFlag (withReg (withReg s rd z.tag (canon mz z.r)) rs x.tag (canon mx x.r))
            (decide (z.r.toNat ≡ x.r.toNat [MOD mz.m.toNat]))) 0) ∧
        exec (.neq rd rs) s =
          .next (completed (withFlag (withReg (withReg s rd z.tag (canon mz z.r)) rs x.tag (canon mx x.r))
            (!decide (z.r.toNat ≡ x.r.toNat [MOD mz.m.toNat]))) 0)) ∧
      (mz.m ≠ mx.m →
        exec (.eq rd rs) s = .next (completed (withFlag s false) 0) ∧
          exec (.neq rd rs) s = .next (completed (withFlag s true) 0))

/-! ### Inversion -/

/-- R151: `INV` completes in both outcomes: the value and the success flag of `inv256` on the raw value. -/
def Obligations.InvStoresTheValueAndTheSuccessFlag : Prop :=
  ∀ (rd : RegIx) (s : State) (z : Residue) (slot : Modulus), s.regIs rd z → s.modulusIs z.tag slot →
    exec (.inv rd) s =
      .next (completed (withFlag (withReg s rd z.tag (inv256 slot z.r).1) (inv256 slot z.r).2) 0)

/-- R155: `inv256` succeeds exactly when `gcd(r, m) = 1`, then its value times `r` is 1 modulo `m`, else its value is 0; the
success depends only on the class of `r`. -/
def Obligations.InversionIsCorrect : Prop :=
  ∀ (slot : Modulus) (r r' : W256), slot.Valid →
    ((inv256 slot r).2 = true ↔ Nat.gcd r.toNat slot.m.toNat = 1) ∧
      ((inv256 slot r).2 = true → (inv256 slot r).1.toNat * r.toNat ≡ 1 [MOD slot.m.toNat]) ∧
      ((inv256 slot r).2 = false → (inv256 slot r).1 = 0) ∧
      (r.toNat ≡ r'.toNat [MOD slot.m.toNat] → (inv256 slot r).2 = (inv256 slot r').2)

/-- R152, R154: after any number of passes the Bezout equations hold and the gcd is that of the operands; at most 514 passes
bring `u` to 0. -/
def Obligations.InversionLoopKeepsBezoutAndTerminates : Prop :=
  ∀ m r : Nat, 0 < m → m < 2 ^ 256 → 0 < r → r < 2 ^ 256 → ¬ (r % 2 = 0 ∧ m % 2 = 0) →
    (∀ n, Bezout m r (gcdLoop m r n (gcdStart m r)) ∧
      Nat.gcd (gcdLoop m r n (gcdStart m r)).u (gcdLoop m r n (gcdStart m r)).v = Nat.gcd r m) ∧
      (gcdLoop m r 514 (gcdStart m r)).u = 0

/-- R156: after any number of passes the four cofactors fit 320-bit two's complement. -/
def Obligations.InversionCofactorsFitTheirWidth : Prop :=
  ∀ m r n : Nat, 0 < m → m < 2 ^ 256 → 0 < r → r < 2 ^ 256 → ¬ (r % 2 = 0 ∧ m % 2 = 0) →
    let g := gcdLoop m r n (gcdStart m r)
    (-2 ^ 319 ≤ g.a ∧ g.a < 2 ^ 319) ∧ (-2 ^ 319 ≤ g.b ∧ g.b < 2 ^ 319) ∧ (-2 ^ 319 ≤ g.c ∧ g.c < 2 ^ 319) ∧
      (-2 ^ 319 ≤ g.d ∧ g.d < 2 ^ 319)

/-! ### Exponentiation -/

/-- R164, R167, R169: the three commands complete with the values of their functions; `EXPB` leaves its source register, `EXPP`
does not read its destination and gives it the base's tag. -/
def Obligations.ExponentiationCommandsStoreTheirFunctions : Prop :=
  (∀ (rd : RegIx) (s : State) (z : Residue) (slot : Modulus), s.regIs rd z → s.modulusIs z.tag slot →
    exec (.exp rd) s = .next (completed (withReg s rd z.tag (exp256 slot z.r (BitVec.ofNat 256 (din4 s)))) 0)) ∧
    (∀ (es : SlotIx) (rs : RegIx) (s : State) (x : Residue) (slot : Modulus), es.toNat < s.E.length → s.regIs rs x →
      s.modulusIs x.tag slot →
      exec (.expb es rs) s = .next (completed { s with E := s.E.set es.toNat (some (newBase slot x)) } 0)) ∧
    (∀ (rd : RegIx) (es : SlotIx) (s : State) (b : ExpBase) (slot : Modulus), rd.toNat < s.R.length → s.baseIs es b →
      s.modulusIs b.tag slot →
      exec (.expp rd es) s =
        .next (completed (withReg s rd b.tag (expp256 slot b.l.toList b.h.toList (BitVec.ofNat 256 (din4 s)))) 0))

/-- R161: the window indices of an exponent, weighted, add up to the exponent, and each is below 16. -/
def Obligations.WindowsAddUpToTheExponent : Prop :=
  ∀ y : W256, y.toNat = ((List.range 64).map fun b => windowWeight (win y b) * 2 ^ b).sum ∧ ∀ b, win y b < 16

/-- R165: the single-table scan computes the power; for a prime modulus `a^m == a` for every `a`. -/
def Obligations.ExpComputesThePower : Prop :=
  ∀ (slot : Modulus) (z y : W256), slot.Valid →
    (exp256 slot z y).toNat ≡ z.toNat ^ y.toNat [MOD slot.m.toNat] ∧
      (Nat.Prime slot.m.toNat → (exp256 slot z slot.m).toNat ≡ z.toNat [MOD slot.m.toNat])

/-- R168, R170: the two-table scan over the tables that `EXPB` builds computes the power, in the same class as `EXP`. -/
def Obligations.ExppOverNewTablesComputesThePower : Prop :=
  ∀ (slot : Modulus) (x : Residue) (y : W256), slot.Valid →
    (expp256 slot (newBase slot x).l.toList (newBase slot x).h.toList y).toNat ≡ x.r.toNat ^ y.toNat [MOD slot.m.toNat] ∧
      reduce4 slot (expp256 slot (newBase slot x).l.toList (newBase slot x).h.toList y) = reduce4 slot (exp256 slot x.r y)

/-- R30, R166: the tables of a new base hold the powers that R30 says, from the raw base in `l[1]`. -/
def Obligations.NewBaseHoldsTheTablesOfItsBase : Prop :=
  ∀ (slot : Modulus) (x : Residue), slot.Valid →
    (newBase slot x).tag = x.tag ∧ (newBase slot x).l[1] = x.r ∧ (newBase slot x).TablesFor slot.m.toNat

/-! ### Class independence -/

/-- R192: two states that meet the invariant and differ only in which representative of its class each register and table entry
holds answer every command with the same response, the same flag and the same error record, and differ only so afterwards. -/
def Obligations.OnlyClassesAreObservable : Prop :=
  ∀ (i : Instr) (s s' t : State), s.Inv → s'.Inv → s.SameClasses s' → exec i s = .next t →
    ∃ t', exec i s' = .next t' ∧ t.SameClasses t'

/-! ### The pins -/

/-- R9, R66: from the edge of acceptance until the response `cmd_ready` and `rsp_valid` are 0, whatever the host drives; the
response comes `LAT` edges after acceptance, with the state at its final values: those of the step that issues the command. That
the block is ready again in the cycle of the response is the model's choice (entry 9). -/
def Obligations.HandshakeAnswersAfterTheLatency : Prop :=
  ∀ (lat : Latency) (c : Clocked) (p : PinsIn) (ps : List PinsIn), c.phase = .ready → p.rst = false → p.cmdValid = true →
    (∀ q ∈ ps, q.rst = false) → 1 ≤ lat p.cmdWord p.cmdDin c.block →
    (ps.length < lat p.cmdWord p.cmdDin c.block →
      ((clockRun lat (clockEdge lat c p) ps).pins false).cmdReady = false ∧
        ((clockRun lat (clockEdge lat c p) ps).pins false).rspValid = false) ∧
      (ps.length = lat p.cmdWord p.cmdDin c.block →
        ∃ t, step { c.block with pending := .issue p.cmdWord p.cmdDin :: c.block.pending } = .next t ∧
          clockRun lat (clockEdge lat c p) ps = { block := t, phase := .ready } ∧
          ((clockRun lat (clockEdge lat c p) ps).pins false).rspValid = true)

/-- R230: at an edge with `rst = 1` the block enters the reset state whatever it was doing, a command in flight included; while
`rst = 1`, `cmd_ready = 0` and `rsp_valid = 0`; when `rst` is 0 again `cmd_ready = 1`, and at the first edge with `rst = 0` the
block accepts a command. The fields of the reset state that are the model's own are its choice (entries 3, 4). -/
def Obligations.ResetAbandonsTheCommandInFlight : Prop :=
  ∀ (lat : Latency) (c : Clocked) (p q : PinsIn), p.rst = true → q.rst = false →
    (clockEdge lat c p).block = resetOf c.block c.block.pending ∧
      (c.pins true).cmdReady = false ∧ (c.pins true).rspValid = false ∧ ((clockEdge lat c p).pins false).cmdReady = true ∧
      (q.cmdValid = false → clockEdge lat (clockEdge lat c p) q = clockEdge lat c p) ∧
      (q.cmdValid = true → ∃ n, (clockEdge lat (clockEdge lat c p) q).phase = .busy n)

end
end

