-- ==== Sys2Proof/Laws/State.lean ====
section
/-! SUPPORT. One lemma per field of `State` per update: what the update leaves in the field. All true by `rfl`. -/

namespace Sys2Proof.Machine

variable (s : State)

@[simp] theorem State.setReg_M (i : RegIx) (x : Residue) : (s.setReg i x).M = s.M := rfl
@[simp] theorem State.setReg_R (i : RegIx) (x : Residue) : (s.setReg i x).R = s.R.set i.toNat (some x) := rfl
@[simp] theorem State.setReg_E (i : RegIx) (x : Residue) : (s.setReg i x).E = s.E := rfl
@[simp] theorem State.setReg_status (i : RegIx) (x : Residue) : (s.setReg i x).status = s.status := rfl
@[simp] theorem State.setReg_rsp (i : RegIx) (x : Residue) : (s.setReg i x).rsp = s.rsp := rfl
@[simp] theorem State.setReg_cmdWord (i : RegIx) (x : Residue) : (s.setReg i x).cmdWord = s.cmdWord := rfl
@[simp] theorem State.setReg_cmdDin (i : RegIx) (x : Residue) : (s.setReg i x).cmdDin = s.cmdDin := rfl
@[simp] theorem State.setReg_pending (i : RegIx) (x : Residue) : (s.setReg i x).pending = s.pending := rfl
@[simp] theorem State.setReg_cmdIndex (i : RegIx) (x : Residue) : (s.setReg i x).cmdIndex = s.cmdIndex := rfl

@[simp] theorem State.setModulus_M (i : SlotIx) (x : Modulus) : (s.setModulus i x).M = s.M.set i.toNat (some x) := rfl
@[simp] theorem State.setModulus_R (i : SlotIx) (x : Modulus) : (s.setModulus i x).R = s.R := rfl
@[simp] theorem State.setModulus_E (i : SlotIx) (x : Modulus) : (s.setModulus i x).E = s.E := rfl
@[simp] theorem State.setModulus_status (i : SlotIx) (x : Modulus) : (s.setModulus i x).status = s.status := rfl
@[simp] theorem State.setModulus_rsp (i : SlotIx) (x : Modulus) : (s.setModulus i x).rsp = s.rsp := rfl
@[simp] theorem State.setModulus_cmdWord (i : SlotIx) (x : Modulus) : (s.setModulus i x).cmdWord = s.cmdWord := rfl
@[simp] theorem State.setModulus_cmdDin (i : SlotIx) (x : Modulus) : (s.setModulus i x).cmdDin = s.cmdDin := rfl
@[simp] theorem State.setModulus_pending (i : SlotIx) (x : Modulus) : (s.setModulus i x).pending = s.pending := rfl
@[simp] theorem State.setModulus_cmdIndex (i : SlotIx) (x : Modulus) : (s.setModulus i x).cmdIndex = s.cmdIndex := rfl

@[simp] theorem State.setBase_M (i : SlotIx) (x : ExpBase) : (s.setBase i x).M = s.M := rfl
@[simp] theorem State.setBase_R (i : SlotIx) (x : ExpBase) : (s.setBase i x).R = s.R := rfl
@[simp] theorem State.setBase_E (i : SlotIx) (x : ExpBase) : (s.setBase i x).E = s.E.set i.toNat (some x) := rfl
@[simp] theorem State.setBase_status (i : SlotIx) (x : ExpBase) : (s.setBase i x).status = s.status := rfl
@[simp] theorem State.setBase_rsp (i : SlotIx) (x : ExpBase) : (s.setBase i x).rsp = s.rsp := rfl
@[simp] theorem State.setBase_cmdWord (i : SlotIx) (x : ExpBase) : (s.setBase i x).cmdWord = s.cmdWord := rfl
@[simp] theorem State.setBase_cmdDin (i : SlotIx) (x : ExpBase) : (s.setBase i x).cmdDin = s.cmdDin := rfl
@[simp] theorem State.setBase_pending (i : SlotIx) (x : ExpBase) : (s.setBase i x).pending = s.pending := rfl
@[simp] theorem State.setBase_cmdIndex (i : SlotIx) (x : ExpBase) : (s.setBase i x).cmdIndex = s.cmdIndex := rfl

@[simp] theorem State.setFlag_M (b : Bool) : (s.setFlag b).M = s.M := rfl
@[simp] theorem State.setFlag_R (b : Bool) : (s.setFlag b).R = s.R := rfl
@[simp] theorem State.setFlag_E (b : Bool) : (s.setFlag b).E = s.E := rfl
@[simp] theorem State.setFlag_status (b : Bool) : (s.setFlag b).status = { s.status with flag := b } := rfl
@[simp] theorem State.setFlag_rsp (b : Bool) : (s.setFlag b).rsp = s.rsp := rfl
@[simp] theorem State.setFlag_cmdWord (b : Bool) : (s.setFlag b).cmdWord = s.cmdWord := rfl
@[simp] theorem State.setFlag_cmdDin (b : Bool) : (s.setFlag b).cmdDin = s.cmdDin := rfl
@[simp] theorem State.setFlag_pending (b : Bool) : (s.setFlag b).pending = s.pending := rfl
@[simp] theorem State.setFlag_cmdIndex (b : Bool) : (s.setFlag b).cmdIndex = s.cmdIndex := rfl

@[simp] theorem State.raise_M (e : ErrCode) : (s.raise e).M = s.M := rfl
@[simp] theorem State.raise_R (e : ErrCode) : (s.raise e).R = s.R := rfl
@[simp] theorem State.raise_E (e : ErrCode) : (s.raise e).E = s.E := rfl
@[simp] theorem State.raise_status (e : ErrCode) : (s.raise e).status = s.status.record e s.cmdWord := rfl
@[simp] theorem State.raise_rsp (e : ErrCode) : (s.raise e).rsp = { valid := true, err := e.code, flag := s.status.flag, dout := doutNone } := rfl
@[simp] theorem State.raise_cmdWord (e : ErrCode) : (s.raise e).cmdWord = s.cmdWord := rfl
@[simp] theorem State.raise_cmdDin (e : ErrCode) : (s.raise e).cmdDin = s.cmdDin := rfl
@[simp] theorem State.raise_pending (e : ErrCode) : (s.raise e).pending = s.pending := rfl
@[simp] theorem State.raise_cmdIndex (e : ErrCode) : (s.raise e).cmdIndex = s.cmdIndex := rfl

@[simp] theorem State.clearErr_M : s.clearErr.M = s.M := rfl
@[simp] theorem State.clearErr_R : s.clearErr.R = s.R := rfl
@[simp] theorem State.clearErr_E : s.clearErr.E = s.E := rfl
@[simp] theorem State.clearErr_status : s.clearErr.status = { s.status with err := 0, errcmd := 0 } := rfl
@[simp] theorem State.clearErr_rsp : s.clearErr.rsp = s.rsp := rfl
@[simp] theorem State.clearErr_cmdWord : s.clearErr.cmdWord = s.cmdWord := rfl
@[simp] theorem State.clearErr_cmdDin : s.clearErr.cmdDin = s.cmdDin := rfl
@[simp] theorem State.clearErr_pending : s.clearErr.pending = s.pending := rfl
@[simp] theorem State.clearErr_cmdIndex : s.clearErr.cmdIndex = s.cmdIndex := rfl

@[simp] theorem State.respond_M (d : W320) : (s.respond d).M = s.M := rfl
@[simp] theorem State.respond_R (d : W320) : (s.respond d).R = s.R := rfl
@[simp] theorem State.respond_E (d : W320) : (s.respond d).E = s.E := rfl
@[simp] theorem State.respond_status (d : W320) : (s.respond d).status = s.status := rfl
@[simp] theorem State.respond_rsp (d : W320) : (s.respond d).rsp = { valid := true, err := 0, flag := s.status.flag, dout := d } := rfl
@[simp] theorem State.respond_cmdWord (d : W320) : (s.respond d).cmdWord = s.cmdWord := rfl
@[simp] theorem State.respond_cmdDin (d : W320) : (s.respond d).cmdDin = s.cmdDin := rfl
@[simp] theorem State.respond_pending (d : W320) : (s.respond d).pending = s.pending := rfl
@[simp] theorem State.respond_cmdIndex (d : W320) : (s.respond d).cmdIndex = s.cmdIndex := rfl

@[simp] theorem State.accept_M (w : CmdWord) (d : W512) (rest : List HostMove) : (s.accept w d rest).M = s.M := rfl
@[simp] theorem State.accept_R (w : CmdWord) (d : W512) (rest : List HostMove) : (s.accept w d rest).R = s.R := rfl
@[simp] theorem State.accept_E (w : CmdWord) (d : W512) (rest : List HostMove) : (s.accept w d rest).E = s.E := rfl
@[simp] theorem State.accept_status (w : CmdWord) (d : W512) (rest : List HostMove) : (s.accept w d rest).status = s.status := rfl
@[simp] theorem State.accept_rsp (w : CmdWord) (d : W512) (rest : List HostMove) : (s.accept w d rest).rsp = s.rsp := rfl
@[simp] theorem State.accept_cmdWord (w : CmdWord) (d : W512) (rest : List HostMove) : (s.accept w d rest).cmdWord = w := rfl
@[simp] theorem State.accept_cmdDin (w : CmdWord) (d : W512) (rest : List HostMove) : (s.accept w d rest).cmdDin = d := rfl
@[simp] theorem State.accept_pending (w : CmdWord) (d : W512) (rest : List HostMove) : (s.accept w d rest).pending = rest := rfl
@[simp] theorem State.accept_cmdIndex (w : CmdWord) (d : W512) (rest : List HostMove) : (s.accept w d rest).cmdIndex = s.cmdIndex + 1 := rfl

@[simp] theorem State.idle_M : s.idle.M = s.M := rfl
@[simp] theorem State.idle_R : s.idle.R = s.R := rfl
@[simp] theorem State.idle_E : s.idle.E = s.E := rfl
@[simp] theorem State.idle_status : s.idle.status = s.status := rfl
@[simp] theorem State.idle_rsp : s.idle.rsp = Response.idle := rfl
@[simp] theorem State.idle_cmdWord : s.idle.cmdWord = s.cmdWord := rfl
@[simp] theorem State.idle_cmdDin : s.idle.cmdDin = s.cmdDin := rfl
@[simp] theorem State.idle_pending : s.idle.pending = s.pending := rfl
@[simp] theorem State.idle_cmdIndex : s.idle.cmdIndex = s.cmdIndex := rfl

@[simp] theorem State.applyReset_M (rest : List HostMove) : (s.applyReset rest).M = List.replicate s.M.length none := rfl
@[simp] theorem State.applyReset_R (rest : List HostMove) : (s.applyReset rest).R = List.replicate s.R.length none := rfl
@[simp] theorem State.applyReset_E (rest : List HostMove) : (s.applyReset rest).E = List.replicate s.E.length none := rfl
@[simp] theorem State.applyReset_status (rest : List HostMove) : (s.applyReset rest).status = Status.reset := rfl
@[simp] theorem State.applyReset_rsp (rest : List HostMove) : (s.applyReset rest).rsp = Response.idle := rfl
@[simp] theorem State.applyReset_cmdWord (rest : List HostMove) : (s.applyReset rest).cmdWord = 0 := rfl
@[simp] theorem State.applyReset_cmdDin (rest : List HostMove) : (s.applyReset rest).cmdDin = 0 := rfl
@[simp] theorem State.applyReset_pending (rest : List HostMove) : (s.applyReset rest).pending = rest := rfl
@[simp] theorem State.applyReset_cmdIndex (rest : List HostMove) : (s.applyReset rest).cmdIndex = s.cmdIndex := rfl

/-! ### The storage sizes are kept by every write (R8) -/

@[simp] theorem State.setReg_params (i : RegIx) (x : Residue) : (s.setReg i x).params = s.params := by
  simp [State.params]

@[simp] theorem State.setModulus_params (i : SlotIx) (x : Modulus) : (s.setModulus i x).params = s.params := by
  simp [State.params]

@[simp] theorem State.setBase_params (i : SlotIx) (x : ExpBase) : (s.setBase i x).params = s.params := by
  simp [State.params]

@[simp] theorem State.setFlag_params (b : Bool) : (s.setFlag b).params = s.params := rfl

@[simp] theorem State.raise_params (e : ErrCode) : (s.raise e).params = s.params := rfl

@[simp] theorem State.clearErr_params : s.clearErr.params = s.params := rfl

@[simp] theorem State.respond_params (d : W320) : (s.respond d).params = s.params := rfl

@[simp] theorem State.accept_params (w : CmdWord) (d : W512) (rest : List HostMove) :
    (s.accept w d rest).params = s.params := rfl

@[simp] theorem State.idle_params : s.idle.params = s.params := rfl

@[simp] theorem State.applyReset_params (rest : List HostMove) : (s.applyReset rest).params = s.params := by
  simp [State.params]

/-! ### The reset state -/

@[simp] theorem State.resetWith_params (p : Params) : (State.resetWith p).params = p := by
  simp [State.params, State.resetWith]

@[simp] theorem State.reset_pending : State.reset.pending = [] := rfl

@[simp] theorem State.reset_status : State.reset.status = Status.reset := rfl

@[simp] theorem State.reset_rsp : State.reset.rsp = Response.idle := rfl

/-- Reset of the block gives the reset state for its own storage sizes, with the host's side kept (R230, R231). -/
theorem State.applyReset_eq (rest : List HostMove) :
    s.applyReset rest = { State.resetWith s.params with pending := rest, cmdIndex := s.cmdIndex } := rfl

end Sys2Proof.Machine
end

