-- ==== Sys2Proof/Laws/Ops.lean ====
section
/-! SUPPORT. For each shared operation, once, everything it can do; and the two ways a command ends. Proofs about meanings cite
these lemmas. -/

namespace Sys2Proof.Machine

variable {s : State}

/-! ### Sequencing of checks -/

/-- A sequence succeeds exactly when both parts do. -/
theorem bind_eq_ok {α β : Type} {x : Except ErrCode α} {f : α → Except ErrCode β} {b : β} :
    (x >>= f) = .ok b ↔ ∃ a, x = .ok a ∧ f a = .ok b := by
  cases x <;> simp [bind, Except.bind]

/-- A sequence fails with the first fault (R209). -/
theorem bind_eq_error {α β : Type} {x : Except ErrCode α} {f : α → Except ErrCode β} {c : ErrCode} :
    (x >>= f) = .error c ↔ x = .error c ∨ ∃ a, x = .ok a ∧ f a = .error c := by
  cases x <;> simp [bind, Except.bind]

@[simp] theorem pure_eq_ok {α : Type} (a : α) : (pure a : Except ErrCode α) = .ok a := rfl

@[simp] theorem ok_bind {α β : Type} (a : α) (f : α → Except ErrCode β) : (Except.ok a >>= f) = f a := rfl

@[simp] theorem error_bind {α β : Type} (c : ErrCode) (f : α → Except ErrCode β) :
    ((Except.error c : Except ErrCode α) >>= f) = .error c := rfl

/-! ### Index checks (R205) -/

theorem needReg_eq_ok {i : RegIx} : s.needReg i = .ok () ↔ i.toNat < s.R.length := by
  unfold State.needReg; split <;> simp_all

theorem needReg_eq_error {i : RegIx} {c : ErrCode} : s.needReg i = .error c ↔ s.R.length ≤ i.toNat ∧ c = .index := by
  unfold State.needReg
  split
  · simp; omega
  · simp [eq_comm]; omega

theorem needModulus_eq_ok {i : SlotIx} : s.needModulus i = .ok () ↔ i.toNat < s.M.length := by
  unfold State.needModulus; split <;> simp_all

theorem needModulus_eq_error {i : SlotIx} {c : ErrCode} :
    s.needModulus i = .error c ↔ s.M.length ≤ i.toNat ∧ c = .index := by
  unfold State.needModulus
  split
  · simp; omega
  · simp [eq_comm]; omega

theorem needBase_eq_ok {i : SlotIx} : s.needBase i = .ok () ↔ i.toNat < s.E.length := by
  unfold State.needBase; split <;> simp_all

theorem needBase_eq_error {i : SlotIx} {c : ErrCode} : s.needBase i = .error c ↔ s.E.length ≤ i.toNat ∧ c = .index := by
  unfold State.needBase
  split
  · simp; omega
  · simp [eq_comm]; omega

/-! ### Source reads (R206) -/

theorem readReg_eq_ok {i : RegIx} {x : Residue} : s.readReg i = .ok x ↔ s.regIs i x := by
  unfold State.readReg State.regIs
  rcases s.R[i.toNat]? with _ | _ | y <;> simp

theorem readReg_eq_error {i : RegIx} {c : ErrCode} : s.readReg i = .error c ↔ (∀ x, ¬ s.regIs i x) ∧ c = .invalid := by
  unfold State.readReg State.regIs
  rcases s.R[i.toNat]? with _ | _ | y <;> simp [eq_comm]

theorem readModulus_eq_ok {i : SlotIx} {x : Modulus} : s.readModulus i = .ok x ↔ s.modulusIs i x := by
  unfold State.readModulus State.modulusIs
  rcases s.M[i.toNat]? with _ | _ | y <;> simp

theorem readModulus_eq_error {i : SlotIx} {c : ErrCode} :
    s.readModulus i = .error c ↔ (∀ x, ¬ s.modulusIs i x) ∧ c = .invalid := by
  unfold State.readModulus State.modulusIs
  rcases s.M[i.toNat]? with _ | _ | y <;> simp [eq_comm]

theorem readBase_eq_ok {i : SlotIx} {x : ExpBase} : s.readBase i = .ok x ↔ s.baseIs i x := by
  unfold State.readBase State.baseIs
  rcases s.E[i.toNat]? with _ | _ | y <;> simp

theorem readBase_eq_error {i : SlotIx} {c : ErrCode} : s.readBase i = .error c ↔ (∀ x, ¬ s.baseIs i x) ∧ c = .invalid := by
  unfold State.readBase State.baseIs
  rcases s.E[i.toNat]? with _ | _ | y <;> simp [eq_comm]

/-! ### Valid bits -/

theorem hasReg_iff {i : RegIx} : s.hasReg i = true ↔ ∃ x, s.regIs i x := by
  unfold State.hasReg State.regIs
  rcases h : s.R[i.toNat]? with _ | _ | _ <;> simp

theorem hasModulus_iff {i : SlotIx} : s.hasModulus i = true ↔ ∃ x, s.modulusIs i x := by
  unfold State.hasModulus State.modulusIs
  rcases h : s.M[i.toNat]? with _ | _ | _ <;> simp

theorem hasBase_iff {i : SlotIx} : s.hasBase i = true ↔ ∃ x, s.baseIs i x := by
  unfold State.hasBase State.baseIs
  rcases h : s.E[i.toNat]? with _ | _ | _ <;> simp

/-- A valid register is a register: its index is below `NRES`. -/
theorem regIs_lt {i : RegIx} {x : Residue} (h : s.regIs i x) : i.toNat < s.R.length :=
  (List.getElem?_eq_some_iff.mp h).1

theorem modulusIs_lt {i : SlotIx} {x : Modulus} (h : s.modulusIs i x) : i.toNat < s.M.length :=
  (List.getElem?_eq_some_iff.mp h).1

theorem baseIs_lt {i : SlotIx} {x : ExpBase} (h : s.baseIs i x) : i.toNat < s.E.length :=
  (List.getElem?_eq_some_iff.mp h).1

/-! ### Preconditions of one command (R207, R203) -/

theorem needFree_eq_ok {i : SlotIx} : s.needFree i = .ok () ↔ ∀ x, ¬ s.modulusIs i x := by
  unfold State.needFree State.modulusIs
  rcases s.M[i.toNat]? with _ | _ | y <;> simp

theorem needFree_eq_error {i : SlotIx} {c : ErrCode} :
    s.needFree i = .error c ↔ (∃ x, s.modulusIs i x) ∧ c = .modBusy := by
  unfold State.needFree State.modulusIs
  rcases s.M[i.toNat]? with _ | _ | y <;> simp [eq_comm]

theorem needCompat_eq_ok {z x : Residue} {mz mx : Modulus} :
    needCompat z x mz mx = .ok () ↔ z.tag = x.tag ∨ mz.m = mx.m := by
  unfold needCompat compat
  by_cases h : z.tag = x.tag
  · simp [h]
  · by_cases h2 : mz.m = mx.m <;> simp [h, h2]

theorem needCompat_eq_error {z x : Residue} {mz mx : Modulus} {c : ErrCode} :
    needCompat z x mz mx = .error c ↔ (z.tag ≠ x.tag ∧ mz.m ≠ mx.m) ∧ c = .incompat := by
  unfold needCompat compat
  by_cases h : z.tag = x.tag
  · simp [h]
  · by_cases h2 : mz.m = mx.m <;> simp [h, h2, eq_comm]

/-! ### Reading back what was written -/

/-- The written register holds what was written. -/
theorem setReg_regIs_self {i : RegIx} {x : Residue} (h : i.toNat < s.R.length) : (s.setReg i x).regIs i x := by
  simp [State.regIs, h]

/-- Every other register is as it was. -/
theorem setReg_getElem?_ne {i : RegIx} {x : Residue} {k : Nat} (h : k ≠ i.toNat) : (s.setReg i x).R[k]? = s.R[k]? := by
  simp [List.getElem?_set_ne (Ne.symm h)]

theorem setModulus_modulusIs_self {i : SlotIx} {x : Modulus} (h : i.toNat < s.M.length) :
    (s.setModulus i x).modulusIs i x := by
  simp [State.modulusIs, h]

theorem setModulus_getElem?_ne {i : SlotIx} {x : Modulus} {k : Nat} (h : k ≠ i.toNat) :
    (s.setModulus i x).M[k]? = s.M[k]? := by
  simp [List.getElem?_set_ne (Ne.symm h)]

theorem setBase_baseIs_self {i : SlotIx} {x : ExpBase} (h : i.toNat < s.E.length) : (s.setBase i x).baseIs i x := by
  simp [State.baseIs, h]

theorem setBase_getElem?_ne {i : SlotIx} {x : ExpBase} {k : Nat} (h : k ≠ i.toNat) :
    (s.setBase i x).E[k]? = s.E[k]? := by
  simp [List.getElem?_set_ne (Ne.symm h)]

/-! ### How a command ends (R74, R210) -/

/-- A command ends in one of two ways: it completed with an effect, or it faulted and its state is the one it started from. -/
theorem finish_eq_next {r : Except ErrCode Effect} {t : State} :
    s.finish r = .next t ↔ (∃ e, r = .ok e ∧ t = e.state.respond e.dout) ∨ ∃ c, r = .error c ∧ t = s.raise c := by
  unfold State.finish; split <;> simp [eq_comm]

theorem finish_ok {e : Effect} : s.finish (.ok e) = .next (e.state.respond e.dout) := rfl

theorem finish_error {c : ErrCode} : s.finish (.error c) = .next (s.raise c) := rfl

/-- No command stops the machine (R213). -/
theorem finish_isNext (r : Except ErrCode Effect) : ∃ t, s.finish r = .next t := by
  unfold State.finish; split <;> exact ⟨_, rfl⟩

/-! ### The error record (R211) -/

theorem record_of_clear {t : Status} {e : ErrCode} {w : CmdWord} (h : t.err = 0) :
    t.record e w = { t with err := e.code, errcmd := w } := by
  simp [Status.record, h]

theorem record_of_set {t : Status} {e : ErrCode} {w : CmdWord} (h : t.err ≠ 0) : t.record e w = t := if_neg h

@[simp] theorem record_flag (t : Status) (e : ErrCode) (w : CmdWord) : (t.record e w).flag = t.flag := by
  unfold Status.record; split <;> rfl

theorem code_ne_zero (e : ErrCode) : e.code ≠ 0 := by cases e <;> decide

theorem code_le (e : ErrCode) : e.code.toNat ≤ 8 := by cases e <;> decide

/-! ### Modulus construction (R94) -/

/-- What `newmodWith` can answer. -/
theorem newmodWith_cases (mu : W320) (m : W256) (p : Nat) (hp : p = (wordOf mu 4).toNat * m.toNat) :
    (2 ^ 256 ≤ p ∧ newmodWith mu m = .error .mmu0) ∨
      (p < 2 ^ 256 ∧ p + m.toNat < 2 ^ 256 ∧ newmodWith mu m = .error .mmu1) ∨
      (p < 2 ^ 256 ∧ 2 ^ 256 ≤ p + m.toNat ∧
        newmodWith mu m =
          .ok { m := m, mu := mu, mmu0 := BitVec.ofNat 256 p, mmu1 := BitVec.ofNat 256 (p + m.toNat - 2 ^ 256) }) := by
  unfold newmodWith
  simp only [← hp]
  rcases Nat.lt_or_ge p (2 ^ 256) with h | h
  · have h0 : ¬ p / 2 ^ 256 ≠ 0 := by simp only [Nat.div_eq_of_lt h, ne_eq, not_true, not_false_eq_true]
    rcases Nat.lt_or_ge (p + m.toNat) (2 ^ 256) with h2 | h2
    · exact .inr (.inl ⟨h, h2, by rw [if_neg h0, if_pos h2]⟩)
    · exact .inr (.inr ⟨h, h2, by rw [if_neg h0, if_neg (Nat.not_lt.mpr h2)]⟩)
  · have h0 : p / 2 ^ 256 ≠ 0 := Nat.ne_of_gt (Nat.div_pos h (by positivity))
    exact .inl ⟨h, by rw [if_pos h0]⟩

/-! ### The transaction and the step -/

theorem runAccepted_of_decode {i : Instr} (h : decode s.cmdWord = .ok i) : runAccepted s = exec i s := by
  simp [runAccepted, h]

theorem runAccepted_of_illegal {e : DecodeError} (h : decode s.cmdWord = .error e) : runAccepted s = .next (s.raise .illegal) := by
  simp [runAccepted, h, execIllegal, finish_error]

/-- What a step does, by the host's next move. -/
theorem step_cases (s : State) :
    (s.pending = [] ∧ step s = .next s.idle) ∨
      (∃ rest, s.pending = .reset :: rest ∧ step s = .next (s.applyReset rest)) ∨
      ∃ w d rest, s.pending = .issue w d :: rest ∧ step s = runAccepted (s.accept w d rest) := by
  unfold step takeMove
  rcases h : s.pending with _ | ⟨_ | ⟨w, d⟩, rest⟩
  · exact .inl ⟨rfl, rfl⟩
  · exact .inr (.inl ⟨rest, rfl, rfl⟩)
  · exact .inr (.inr ⟨w, d, rest, rfl, rfl⟩)

end Sys2Proof.Machine
end

