-- ==== Sys2Proof/Laws/PerInstr.lean ====
section
/-! SUPPORT. Statements for all instructions, one lemma per constructor: the fields an encoding is made of. -/

namespace Sys2Proof.Laws

/-- The fields of a command carry its opcode (R70) and a `zero` field of 0 (R68). -/
def FieldsCarryOpcode.Statement (i : Instr) : Prop := (fieldsOf i).op = opcode i ∧ (fieldsOf i).zero = 0

theorem FieldsCarryOpcode.nop : FieldsCarryOpcode.Statement (.nop) := ⟨rfl, rfl⟩

theorem FieldsCarryOpcode.clrerr : FieldsCarryOpcode.Statement (.clrerr) := ⟨rfl, rfl⟩

theorem FieldsCarryOpcode.modset (ms : SlotIx) : FieldsCarryOpcode.Statement (.modset ms) := ⟨rfl, rfl⟩

theorem FieldsCarryOpcode.modget (ms : SlotIx) : FieldsCarryOpcode.Statement (.modget ms) := ⟨rfl, rfl⟩

theorem FieldsCarryOpcode.muget (ms : SlotIx) : FieldsCarryOpcode.Statement (.muget ms) := ⟨rfl, rfl⟩

theorem FieldsCarryOpcode.mmu0get (ms : SlotIx) : FieldsCarryOpcode.Statement (.mmu0get ms) := ⟨rfl, rfl⟩

theorem FieldsCarryOpcode.mmu1get (ms : SlotIx) : FieldsCarryOpcode.Statement (.mmu1get ms) := ⟨rfl, rfl⟩

theorem FieldsCarryOpcode.rset (rd : RegIx) (ms : SlotIx) : FieldsCarryOpcode.Statement (.rset rd ms) := ⟨rfl, rfl⟩

theorem FieldsCarryOpcode.rget (rd : RegIx) : FieldsCarryOpcode.Statement (.rget rd) := ⟨rfl, rfl⟩

theorem FieldsCarryOpcode.rcopy (rd : RegIx) (rs : RegIx) : FieldsCarryOpcode.Statement (.rcopy rd rs) := ⟨rfl, rfl⟩

theorem FieldsCarryOpcode.red4 (rd : RegIx) : FieldsCarryOpcode.Statement (.red4 rd) := ⟨rfl, rfl⟩

theorem FieldsCarryOpcode.red8 (rd : RegIx) (ms : SlotIx) : FieldsCarryOpcode.Statement (.red8 rd ms) := ⟨rfl, rfl⟩

theorem FieldsCarryOpcode.add (rd : RegIx) (rs : RegIx) : FieldsCarryOpcode.Statement (.add rd rs) := ⟨rfl, rfl⟩

theorem FieldsCarryOpcode.sub (rd : RegIx) (rs : RegIx) : FieldsCarryOpcode.Statement (.sub rd rs) := ⟨rfl, rfl⟩

theorem FieldsCarryOpcode.neg (rd : RegIx) : FieldsCarryOpcode.Statement (.neg rd) := ⟨rfl, rfl⟩

theorem FieldsCarryOpcode.dbl (rd : RegIx) : FieldsCarryOpcode.Statement (.dbl rd) := ⟨rfl, rfl⟩

theorem FieldsCarryOpcode.mul (rd : RegIx) (rs : RegIx) : FieldsCarryOpcode.Statement (.mul rd rs) := ⟨rfl, rfl⟩

theorem FieldsCarryOpcode.sqr (rd : RegIx) : FieldsCarryOpcode.Statement (.sqr rd) := ⟨rfl, rfl⟩

theorem FieldsCarryOpcode.eq (rd : RegIx) (rs : RegIx) : FieldsCarryOpcode.Statement (.eq rd rs) := ⟨rfl, rfl⟩

theorem FieldsCarryOpcode.neq (rd : RegIx) (rs : RegIx) : FieldsCarryOpcode.Statement (.neq rd rs) := ⟨rfl, rfl⟩

theorem FieldsCarryOpcode.inv (rd : RegIx) : FieldsCarryOpcode.Statement (.inv rd) := ⟨rfl, rfl⟩

theorem FieldsCarryOpcode.exp (rd : RegIx) : FieldsCarryOpcode.Statement (.exp rd) := ⟨rfl, rfl⟩

theorem FieldsCarryOpcode.expb (es : SlotIx) (rs : RegIx) : FieldsCarryOpcode.Statement (.expb es rs) := ⟨rfl, rfl⟩

theorem FieldsCarryOpcode.expp (rd : RegIx) (es : SlotIx) : FieldsCarryOpcode.Statement (.expp rd es) := ⟨rfl, rfl⟩

end Sys2Proof.Laws
end

