-- ==== Sys2Proof/Tests/Slice0.lean ====
section
/-! SUPPORT. Tests: ill-formed commands, command words written out from the encoding (R67, R68, R70), one step of each command with
the spec's own expected result, and for each statement with hypotheses a state and operands that meet them. -/

namespace Sys2Proof.Tests

-- One theorem after the other: side by side, the evaluations in this file open more threads than the check's memory limit allows.
set_option Elab.async false

open Sys2Proof Sys2Proof.Machine Sys2Proof.Claims

/-! ### Well-formedness: each index check refuses a term (R205, default storage sizes) -/

theorem test_wf_refuses_register_sixteen : Instr.wf Config.default (.neg 16) = false := by decide

theorem test_wf_refuses_second_register : Instr.wf Config.default (.add 0 31) = false := by decide

theorem test_wf_refuses_modulus_slot_four : Instr.wf Config.default (.modset 4) = false := by decide

theorem test_wf_refuses_modulus_slot_of_rset : Instr.wf Config.default (.rset 15 15) = false := by decide

theorem test_wf_refuses_base_slot_two : Instr.wf Config.default (.expb 2 0) = false := by decide

theorem test_wf_refuses_base_slot_of_expp : Instr.wf Config.default (.expp 0 15) = false := by decide

theorem test_wf_accepts_the_last_indices :
    Instr.wf Config.default (.red8 15 3) = true ∧ Instr.wf Config.default (.expp 15 1) = true := by decide

/-! ### Decoding: one word of every command, written out as `op rd rs ms es zero` (R67, R70) -/

theorem test_decode_system :
    decode 0b00000000_00000_00000_0000_0000_000000 = .ok .nop ∧
      decode 0b00000001_00000_00000_0000_0000_000000 = .ok .clrerr := by
  decide

theorem test_decode_modulus :
    decode 0b00010000_00000_00000_0011_0000_000000 = .ok (.modset 3) ∧
      decode 0b00010001_00000_00000_0010_0000_000000 = .ok (.modget 2) ∧
      decode 0b00010010_00000_00000_0001_0000_000000 = .ok (.muget 1) ∧
      decode 0b00010011_00000_00000_1001_0000_000000 = .ok (.mmu0get 9) ∧
      decode 0b00010100_00000_00000_0110_0000_000000 = .ok (.mmu1get 6) := by
  decide

theorem test_decode_transfer :
    decode 0b00100000_00101_00000_0010_0000_000000 = .ok (.rset 5 2) ∧
      decode 0b00100001_00001_00000_0000_0000_000000 = .ok (.rget 1) ∧
      decode 0b00100010_01111_00110_0000_0000_000000 = .ok (.rcopy 15 6) := by
  decide

theorem test_decode_reducers :
    decode 0b00100011_10011_00000_0000_0000_000000 = .ok (.red4 19) ∧
      decode 0b00100100_00101_00000_1101_0000_000000 = .ok (.red8 5 13) := by
  decide

theorem test_decode_additive :
    decode 0b00110000_00011_00101_0000_0000_000000 = .ok (.add 3 5) ∧
      decode 0b00110001_00010_10001_0000_0000_000000 = .ok (.sub 2 17) ∧
      decode 0b00110010_00010_00000_0000_0000_000000 = .ok (.neg 2) ∧
      decode 0b00110011_00100_00000_0000_0000_000000 = .ok (.dbl 4) := by
  decide

theorem test_decode_multiply :
    decode 0b00110100_00000_00001_0000_0000_000000 = .ok (.mul 0 1) ∧
      decode 0b00110101_11111_00000_0000_0000_000000 = .ok (.sqr 31) := by
  decide

theorem test_decode_compare :
    decode 0b00111000_01010_00001_0000_0000_000000 = .ok (.eq 10 1) ∧
      decode 0b00111001_00101_00110_0000_0000_000000 = .ok (.neq 5 6) := by
  decide

theorem test_decode_inversion :
    decode 0b01000000_01000_00000_0000_0000_000000 = .ok (.inv 8) := by
  decide

theorem test_decode_exponent :
    decode 0b01010000_00010_00000_0000_0000_000000 = .ok (.exp 2) ∧
      decode 0b01010001_00000_00010_0000_0001_000000 = .ok (.expb 1 2) ∧
      decode 0b01010010_00100_00000_0000_0001_000000 = .ok (.expp 4 1) := by
  decide

/-- Illegal words of section 2.10 of `spec/95_test_vectors.md`: a set bit in each kind of unused field, and unassigned opcodes. -/
theorem test_decode_refuses :
    decode 0b00000000_00000_00000_0000_0000_000001 = .error (.unusedFieldNotZero 0x00) ∧
      decode 0b00000000_00000_00000_0000_0001_000000 = .error (.unusedFieldNotZero 0x00) ∧
      decode 0b00000001_00001_00000_0000_0000_000000 = .error (.unusedFieldNotZero 0x01) ∧
      decode 0b00110010_00010_00000_0001_0000_000000 = .error (.unusedFieldNotZero 0x32) ∧
      decode 0b00100001_00000_00001_0000_0000_000000 = .error (.unusedFieldNotZero 0x21) ∧
      decode 0x02000000 = .error (.unassignedOpcode 0x02) ∧ decode 0x37000000 = .error (.unassignedOpcode 0x37) ∧
      decode 0xFFFFFFFF = .error (.unassignedOpcode 0xFF) := by
  decide

/-- The host's numbering of the table is the word itself; nothing longer than a command word decodes (R67, R73). -/
theorem test_decodeTableWord :
    decodeTableWord 32 0x51008040 = some (.expb 1 2) ∧ decodeTableWord 32 0x36000000 = none ∧ decodeTableWord 40 0 = none := by
  decide

/-! ### States for the tests -/

/-- The slot that `MODSET` builds for the NIST P-256 prime, as the example of R96 lists it. -/
def p256 : Modulus :=
  { m := words4 0xFFFFFFFFFFFFFFFF 0x00000000FFFFFFFF 0 0xFFFFFFFF00000001
    mu := words5 0x3 0xFFFFFFFEFFFFFFFF 0xFFFFFFFEFFFFFFFE 0x00000000FFFFFFFF 0x1
    mmu0 := words4 0xFFFFFFFFFFFFFFFF 0x00000000FFFFFFFF 0 0xFFFFFFFF00000001
    mmu1 := words4 0xFFFFFFFFFFFFFFFE 0x00000001FFFFFFFF 0 0xFFFFFFFE00000002 }

/-- The slot for `2^255`: `mu` from scenario S5 (R98), `mmu0 = m`, `mmu1 = 0` (R96, powers of two). -/
def twoTo255 : Modulus :=
  { m := words4 0 0 0 0x8000000000000000
    mu := words5 (-1) (-1) (-1) (-1) 1
    mmu0 := words4 0 0 0 0x8000000000000000
    mmu1 := 0 }

/-- The tables of the base raw 1: "base raw 1 gives all entries 1" (R167). -/
def baseOfOne : ExpBase := { tag := 0, l := Vector.replicate 16 1, h := Vector.replicate 16 1 }

/-- Two slots with P-256 and one with `2^255`, registers `r0` and `r1` as given, `r2` bound to the second P-256 slot, `r3` to
`2^255`, `r4` invalid, one base. -/
def start (a b : W256) (din : W512) : State :=
  { M := [some p256, some twoTo255, some p256, none]
    R := [some { tag := 0, r := a }, some { tag := 0, r := b }, some { tag := 2, r := 9 }, some { tag := 1, r := 3 }, none]
    E := [some baseOfOne, none]
    status := Status.reset
    rsp := Response.idle
    cmdWord := 0x21200000
    cmdDin := din
    pending := []
    cmdIndex := 0 }

/-- The state of the witnesses. -/
def plain : State := start 5 7 0

/-- The state after a fault has been recorded. -/
def recorded : State := { plain with status := { flag := true, err := 4, errcmd := 0x30004000 } }

/-- The next state (`exec` never stops, R213). -/
def after (i : Instr) (s : State) : State :=
  match exec i s with
  | .next t => t
  | .fault _ => s
  | .refused _ => s

/-- The state after a step. -/
def stepped (s : State) : State :=
  match step s with
  | .next t => t
  | .fault _ => s
  | .refused _ => s

/-- Raw 2^256 - 1. -/
def allOnes : W256 := words4 (-1) (-1) (-1) (-1)

/-- The operands of scenario S1 (R142). -/
def s1a : W256 := words4 257 479 487 491

/-- The second operand of scenario S1 (R142). -/
def s1b : W256 := words4 997 499 503 509

/-! ### One step of each command; the expected results are the examples of the commands' rules -/

/-- R197, R74. -/
theorem test_nop : after .nop recorded = { recorded with rsp := { valid := true, err := 0, flag := true, dout := 0 } } := by
  decide +kernel

/-- R198: `FLAG` stays, the record is cleared. -/
theorem test_clrerr : (after .clrerr recorded).status = { flag := true, err := 0, errcmd := 0 } := by decide

/-- R96, the example. -/
theorem test_modset : (after (.modset 3) (start 5 7 p256.m.toNat)).M[3]? = some (some p256) := by decide +kernel

/-- R96: `m = 2^192 - 1` faults with `E_MOD_RANGE`; R207: a busy slot comes first. -/
theorem test_modset_faults :
    (after (.modset 3) (start 5 7 (2 ^ 192 - 1))).rsp.err = 1 ∧ (after (.modset 0) (start 5 7 0)).rsp.err = 8 := by
  decide +kernel

/-- R97. -/
theorem test_modget :
    (after (.modget 0) plain).rsp.dout = words5 0xFFFFFFFFFFFFFFFF 0x00000000FFFFFFFF 0 0xFFFFFFFF00000001 0 := by
  decide +kernel

/-- R98, scenario S5. -/
theorem test_muget : (after (.muget 1) plain).rsp.dout = words5 (-1) (-1) (-1) (-1) 1 := by decide +kernel

/-- R99. -/
theorem test_mmu0get : (after (.mmu0get 1) plain).rsp.dout = words5 0 0 0 0x8000000000000000 0 := by decide +kernel

/-- R100. -/
theorem test_mmu1get :
    (after (.mmu1get 0) plain).rsp.dout = words5 0xFFFFFFFFFFFFFFFE 0x00000001FFFFFFFF 0 0xFFFFFFFE00000002 0 := by
  decide +kernel

/-- R187: stored as given, `x = m` included; the destination was not valid. -/
theorem test_rset : (after (.rset 4 2) (start 5 7 p256.m.toNat)).R[4]? = some (some { tag := 2, r := p256.m }) := by
  decide +kernel

/-- R188, the example. -/
theorem test_rget :
    (after (.rget 1) (start 5 allOnes 0)).rsp.dout =
        words5 0x0 0xFFFFFFFF00000000 0xFFFFFFFFFFFFFFFF 0x00000000FFFFFFFE 0 ∧
      (after (.rget 1) (start 5 allOnes 0)).R[1]? =
        some (some { tag := 0, r := words4 0x0 0xFFFFFFFF00000000 0xFFFFFFFFFFFFFFFF 0x00000000FFFFFFFE }) := by
  decide +kernel

/-- R189: raw words copied as they stand, to a register that was not valid. -/
theorem test_rcopy : (after (.rcopy 4 0) (start allOnes 7 0)).R[4]? = some (some { tag := 0, r := allOnes }) := by
  decide +kernel

/-- R116, the example. -/
theorem test_red4 :
    (after (.red4 1) (start 5 allOnes 0)).R[1]? =
      some (some { tag := 0, r := words4 0x0 0xFFFFFFFF00000000 0xFFFFFFFFFFFFFFFF 0x00000000FFFFFFFE }) := by
  decide +kernel

/-- R117, the example. -/
theorem test_red8 :
    (after (.red8 0 0) (start 5 7 (2 ^ 512 - 1))).R[0]? =
      some (some { tag := 0, r := words4 0x2 0xFFFFFFFBFFFFFFFF 0xFFFFFFFFFFFFFFFE 0x00000004FFFFFFFD }) := by
  decide +kernel

/-- R128, the example. -/
theorem test_add :
    (after (.add 0 1) (start allOnes allOnes 0)).R[0]? =
      some (some { tag := 0, r := words4 0x0 0xFFFFFFFE00000000 0xFFFFFFFFFFFFFFFF 0x00000001FFFFFFFD }) := by
  decide +kernel

/-- R203: moduli that differ by tag and words; R27: equal words under two tags are compatible. -/
theorem test_add_compatibility : (after (.add 0 3) plain).rsp.err = 4 ∧ (after (.add 0 2) plain).rsp.err = 0 := by
  decide +kernel

/-- R129, the example. -/
theorem test_sub : (after (.sub 0 1) (start 0 1 0)).R[0]? = some (some { tag := 0, r := p256.m - 1 }) := by decide +kernel

/-- R130, the example. -/
theorem test_neg : (after (.neg 0) (start 1 7 0)).R[0]? = some (some { tag := 0, r := p256.m - 1 }) := by decide +kernel

/-- R131, the example. -/
theorem test_dbl :
    (after (.dbl 0) (start (2 ^ 255) 7 0)).R[0]? =
      some (some { tag := 0, r := words4 0x1 0xFFFFFFFF00000000 0xFFFFFFFFFFFFFFFF 0x00000000FFFFFFFE }) := by
  decide +kernel

/-- R142, scenario S1. -/
theorem test_mul :
    (after (.mul 0 1) (start s1a s1b 0)).R[0]? =
      some (some { tag := 0, r := words4 0x0003BCC9000B4AFA 0xFFFC6E2A0010CB76 0xFFF872F8000D1ABC 0xFFFFD50D0005A74D }) := by
  decide +kernel

/-- R143, the example. -/
theorem test_sqr :
    (after (.sqr 0) (start s1a 7 0)).R[0]? =
      some (some { tag := 0, r := words4 0x00039E6100082022 0xFFFC8F98000B0DD8 0xFFF8B3E600076166 0xFFFFD20700002C6D }) := by
  decide +kernel

/-- R180, the example: `m + 1` equals 1, and the register becomes 1. -/
theorem test_eq :
    (after (.eq 0 1) (start (p256.m + 1) 1 0)).status.flag = true ∧
      (after (.eq 0 1) (start (p256.m + 1) 1 0)).R[0]? = some (some { tag := 0, r := 1 }) := by
  decide +kernel

/-- R181, the example; and with different moduli the answer is 1 and no register changes. -/
theorem test_neq :
    (after (.neq 0 1) (start s1a s1b 0)).status.flag = true ∧ (after (.neq 0 3) (start allOnes 7 0)).status.flag = true ∧
      (after (.neq 0 3) (start allOnes 7 0)).R[0]? = some (some { tag := 0, r := allOnes }) := by
  decide +kernel

/-- R151, scenario S2. -/
theorem test_inv :
    (after (.inv 0) (start 2 7 0)).status.flag = true ∧
      (after (.inv 0) (start 2 7 0)).R[0]? =
        some (some { tag := 0, r := words4 0x0 0x0000000080000000 0x8000000000000000 0x7FFFFFFF80000000 }) := by
  decide +kernel

/-- R151: raw `m` has no inverse: 0, `FLAG = 0`, and no fault. -/
theorem test_inv_of_zero_class :
    (after (.inv 0) (start p256.m 7 0)).rsp = { valid := true, err := 0, flag := false, dout := 0 } ∧
      (after (.inv 0) (start p256.m 7 0)).R[0]? = some (some { tag := 0, r := 0 }) := by
  decide +kernel

/-- R164, the example with `y = 3`. -/
theorem test_exp :
    (after (.exp 0) (start s1a 7 3)).R[0]? =
      some (some { tag := 0, r := words4 0xFD50E701254237AD 0xD83655F51ACB1D3E 0xF8494F6431DAF4EA 0x15FE64312380113B }) := by
  decide +kernel

/-- R167, the example: the raw base and the high table's first power. -/
theorem test_expb :
    ((after (.expb 1 0) (start s1a 7 0)).E[1]?.getD none).map (fun b => (b.tag, b.l[1], b.h[1])) =
      some (0, s1a, words4 0x7DF6F548596E6E13 0x1F444B55E7B97700 0xB5899BCB3FDF3213 0xB897E864E251567E) := by
  decide +kernel

/-- R169: the destination need not be valid and takes the base's tag; the powers of 1 are 1. -/
theorem test_expp : (after (.expp 4 0) (start 5 7 3)).R[4]? = some (some { tag := 0, r := 1 }) := by decide +kernel

/-- R205, R206, R209: the examples of fault priority, from the reset state: index first, then invalid sources. -/
theorem test_fault_priority :
    (after (.add 3 20) State.reset).rsp.err = 6 ∧ (after (.add 0 1) State.reset).rsp.err = 7 ∧
      (after (.expp 0 0) State.reset).rsp.err = 7 := by
  decide +kernel

/-- The first command after reset: `MODSET m0` from the word, with `DIN` zero: `E_MOD_RANGE`, recorded with its word (R211). -/
theorem test_first_command :
    (stepped (State.reset.withFetchWord 32 0x10000000)).status = { flag := false, err := 1, errcmd := 0x10000000 } ∧
      (stepped (State.reset.withFetchWord 32 0x10000000)).cmdIndex = 1 := by
  decide +kernel

/-- R76: the pseudo-instructions; R75: a data tuple only where `DIN` is read. -/
theorem test_assemble :
    assemble { mnemonic := .mov, operands := [.r 1, .r 0], data := none } = some (.issue 0x22080000 0) ∧
      assemble { mnemonic := .zero, operands := [.r 2], data := none } = some (.issue 0x31108000 0) ∧
      assemble { mnemonic := .canon, operands := [.r 3], data := none } = some (.issue 0x23180000 0) ∧
      assemble { mnemonic := .rset, operands := [.r 5, .m 2], data := some [1, 0, 0, 0] } = some (.issue 0x20280800 1) ∧
      assemble { mnemonic := .neg, operands := [.r 5], data := some [1, 0, 0, 0] } = none ∧
      assemble { mnemonic := .neg, operands := [.r 32], data := none } = none := by
  decide +kernel

/-! ### Witnesses: the hypotheses of the statements can be met -/

/-- The two slots are constructed moduli (R22). -/
theorem witness_valid_slots : p256.Valid ∧ twoTo255.Valid := by decide +kernel

theorem witness_LegalWordIsTheEncodingOfItsCommand : decode 0x20280800 = .ok (.rset 5 2) := by decide

theorem witness_WordSpellsACommandExactlyWhenMaskMatches :
    (0x51, 0xFFF83C3F) ∈ opcodeMap ∧ (0x51008040 : CmdWord) &&& 0xFFF83C3F = BitVec.ofNat 32 (0x51 * 2 ^ 24) := by decide

/-- A state whose host has one command to issue. -/
def oneCommand (w : CmdWord) : State := { plain with pending := [.issue w 0] }

theorem witness_StepRunsTheDecodedCommand :
    (oneCommand 0x30004000).pending = [.issue 0x30004000 0] ∧ decode 0x30004000 = .ok (.add 0 1) :=
  ⟨rfl, by decide⟩

theorem witness_IllegalWordIsAnsweredWithIllegal :
    (oneCommand 0x36000000).pending = [.issue 0x36000000 0] ∧ decode 0x36000000 = .error (.unassignedOpcode 0x36) :=
  ⟨rfl, by decide⟩

theorem witness_ResetInvalidatesEverything : ({ plain with pending := [.reset] } : State).pending = .reset :: [] := rfl

theorem witness_IdleHoldsTheState : plain.pending = [] := by decide

theorem witness_ResetMeetsTheInvariant :
    Config.default.Legal ∧ ({ nres := 1, nmod := 1, nexp := 0 } : Params).Legal ∧
      ({ nres := 32, nmod := 16, nexp := 16 } : Params).Legal := by decide

theorem witness_plain_inv : plain.Inv := by decide +kernel

theorem step_oneCommand {w : CmdWord} {i : Instr} (h : decode w = .ok i) :
    step (oneCommand w) = exec i ((oneCommand w).accept w 0 []) :=
  runAccepted_of_decode (s := (oneCommand w).accept w 0 []) h

/-- The state after `RCOPY r0, r1`. -/
def afterCopy : State := after (.rcopy 0 1) ((oneCommand 0x22004000).accept 0x22004000 0 [])

theorem witness_StepKeepsTheInvariant :
    (oneCommand 0x22004000).Inv ∧ step (oneCommand 0x22004000) = .next afterCopy :=
  ⟨by decide +kernel, (step_oneCommand (i := .rcopy 0 1) (by decide)).trans rfl⟩

theorem witness_baseOfOne_tables (m : Nat) : baseOfOne.TablesFor m := by
  refine ⟨rfl, rfl, fun j => ?_⟩
  simp [baseOfOne, Nat.ModEq]

theorem witness_StepKeepsTheBaseTables :
    (oneCommand 0x22004000).Inv ∧ (oneCommand 0x22004000).TablesOk ∧
      step (oneCommand 0x22004000) = .next afterCopy := by
  refine ⟨by decide +kernel, ?_, witness_StepKeepsTheInvariant.2⟩
  intro o ho b hb slot _
  have h : b = baseOfOne := by
    simp only [oneCommand, plain, start, List.mem_cons, List.not_mem_nil, or_false] at ho
    rcases ho with rfl | rfl
    · simpa using hb.symm
    · simp at hb
  rw [h]
  exact witness_baseOfOne_tables _

theorem witness_ModulusSlotsAreWriteOnce :
    (oneCommand 0x22004000).modulusIs 0 p256 ∧ (∀ rest, (oneCommand 0x22004000).pending ≠ .reset :: rest) ∧
      step (oneCommand 0x22004000) = .next afterCopy ∧
      (after (.modset 3) (start 5 7 p256.m.toNat)).M ≠ (start 5 7 p256.m.toNat).M := by
  refine ⟨by decide +kernel, fun rest => ?_, witness_StepKeepsTheInvariant.2, by decide +kernel⟩
  simp [oneCommand]

/-- A fault with no fault recorded, and one with a fault recorded. -/
theorem witness_FaultChangesOnlyTheErrorRecord :
    exec (.red4 4) plain = .next (after (.red4 4) plain) ∧ (after (.red4 4) plain).rsp.err ≠ 0 ∧ plain.status.err = 0 ∧
      exec (.red4 4) recorded = .next (after (.red4 4) recorded) ∧ (after (.red4 4) recorded).rsp.err ≠ 0 ∧
      recorded.status.err ≠ 0 :=
  ⟨rfl, by decide +kernel, by decide, rfl, by decide +kernel, by decide⟩

/-- Each clause: a fault with no fault recorded and with one, `CLRERR`, and another command that completes. -/
theorem witness_ErrorRecordKeepsTheFirstFault :
    (runAccepted { plain with cmdWord := 0x36000000 } = .next ({ plain with cmdWord := 0x36000000 }.raise .illegal) ∧
        ({ plain with cmdWord := 0x36000000 }.raise .illegal).rsp.err ≠ 0 ∧ plain.status.err = 0) ∧
      (runAccepted { recorded with cmdWord := 0x36000000 } = .next ({ recorded with cmdWord := 0x36000000 }.raise .illegal) ∧
        ({ recorded with cmdWord := 0x36000000 }.raise .illegal).rsp.err ≠ 0 ∧ recorded.status.err ≠ 0) ∧
      (runAccepted { recorded with cmdWord := 0x01000000 } = .next (after .clrerr { recorded with cmdWord := 0x01000000 }) ∧
        (after .clrerr { recorded with cmdWord := 0x01000000 }).rsp.err = 0 ∧ decode 0x01000000 = .ok .clrerr) ∧
      runAccepted { recorded with cmdWord := 0 } = .next (after .nop { recorded with cmdWord := 0 }) ∧
      (after .nop { recorded with cmdWord := 0 }).rsp.err = 0 ∧ decode 0 ≠ .ok .clrerr :=
  ⟨⟨rfl, by decide, by decide⟩, ⟨rfl, by decide, by decide⟩, ⟨rfl, by decide, by decide⟩, rfl, by decide, by decide⟩

/-- The first index out of range, and the last in range: `r5`, `m4`, `e2` and `r4`, `m3`, `e1` of this state. -/
theorem witness_IndexFaultExactlyWhenOutOfRange :
    Instr.wf plain.params (.neg 5) = false ∧ Instr.wf plain.params (.modget 4) = false ∧
      Instr.wf plain.params (.expb 2 0) = false ∧ Instr.wf plain.params (.rset 4 3) = true ∧
      Instr.wf plain.params (.expp 4 1) = true ∧ exec (.rset 4 3) plain = .next (after (.rset 4 3) plain) :=
  ⟨by decide, by decide, by decide, by decide, by decide, rfl⟩

theorem witness_InvalidSourceFaults :
    Instr.wf plain.params (.add 0 4) = true ∧ sourcesValid (.add 0 4) plain = false ∧
      Instr.wf plain.params (.expp 0 1) = true ∧ sourcesValid (.expp 0 1) plain = false ∧
      Instr.wf plain.params (.modget 3) = true ∧ sourcesValid (.modget 3) plain = false := by decide

/-- Each clause, the second at the boundary `2^192 - 1`. -/
theorem witness_ModsetFaultsOnBusySlotThenOnSmallModulus :
    (0 : SlotIx).toNat < plain.M.length ∧ plain.hasModulus 0 = true ∧ (3 : SlotIx).toNat < plain.M.length ∧
      plain.hasModulus 3 = false ∧ din4 (start 5 7 (2 ^ 192 - 1)) < 2 ^ 192 := by decide +kernel

theorem witness_DifferentModuliAreIncompatible :
    plain.regIs 0 { tag := 0, r := 5 } ∧ plain.regIs 3 { tag := 1, r := 3 } ∧ plain.modulusIs 0 p256 ∧
      plain.modulusIs 1 twoTo255 ∧ (0 : SlotIx) ≠ 1 ∧ p256.m ≠ twoTo255.m := by decide +kernel

theorem witness_CommandReportsOnlyItsOwnCodes :
    exec (.add 0 3) plain = .next (after (.add 0 3) plain) ∧
      decode { plain with cmdWord := 0x36000000 }.cmdWord = .error (.unassignedOpcode 0x36) ∧
      runAccepted { plain with cmdWord := 0x36000000 } = .next ({ plain with cmdWord := 0x36000000 }.raise .illegal) :=
  ⟨rfl, by decide, rfl⟩

/-- One command that completes, and one that does not. -/
theorem witness_CommandCompletesExactlyWhenItsChecksPass :
    plain.ModuliValid ∧ plain.TagsValid ∧ exec (.modget 0) plain = .next (after (.modget 0) plain) ∧
      (after (.modget 0) plain).rsp.err = 0 ∧ exec (.modget 3) plain = .next (after (.modget 3) plain) ∧
      (after (.modget 3) plain).rsp.err ≠ 0 :=
  ⟨by decide +kernel, by decide +kernel, rfl, by decide +kernel, rfl, by decide +kernel⟩

/-- A command that writes, the elements it does not name, and the flag it does not write. -/
theorem witness_frames :
    exec (.rcopy 4 0) plain = .next (after (.rcopy 4 0) plain) ∧ (∀ r ∈ writesReg (.rcopy 4 0), r.toNat ≠ 3) ∧
      (∀ r ∈ writesModulus (.rcopy 4 0), r.toNat ≠ 0) ∧ (∀ r ∈ writesBase (.rcopy 4 0), r.toNat ≠ 0) ∧
      writesFlag (.rcopy 4 0) = false :=
  ⟨rfl, by decide, by decide, by decide, by decide⟩

theorem witness_UnreadDinWordsAreIgnored :
    (start 5 7 9).cmdDin.toNat % 2 ^ (64 * dinWords (.rset 4 0)) =
        (9 + 2 ^ 256 : W512).toNat % 2 ^ (64 * dinWords (.rset 4 0)) ∧
      exec (.rset 4 0) (start 5 7 9) = .next (after (.rset 4 0) (start 5 7 9)) :=
  ⟨by decide +kernel, rfl⟩

theorem witness_RsetAndRcopyStoreRawWords :
    (4 : RegIx).toNat < plain.R.length ∧ plain.modulusIs 0 p256 ∧ plain.regIs 0 { tag := 0, r := 5 } := by decide +kernel

/-- The smallest and the largest modulus: a power of two, and none. -/
theorem witness_ReciprocalMeetsItsContract :
    (2 ^ 192 ≤ 2 ^ 192 ∧ 2 ^ 192 < 2 ^ 256 ∧ ∃ k, 2 ^ 192 = 2 ^ k) ∧
      2 ^ 192 ≤ 2 ^ 256 - 1 ∧ 2 ^ 256 - 1 < 2 ^ 256 ∧ ¬ ∃ k, 2 ^ 256 - 1 = 2 ^ k := by
  refine ⟨⟨by decide +kernel, by decide +kernel, 192, rfl⟩, by decide +kernel, by decide +kernel, ?_⟩
  rintro ⟨k, h⟩
  have hodd : (2 ^ 256 - 1) % 2 = 1 := by decide +kernel
  rcases k with _ | k
  · exact absurd h (by decide +kernel)
  · rw [h, Nat.pow_succ, Nat.mul_mod_left] at hodd
    exact absurd hodd (by decide)

theorem witness_PowerOfTwoEdgeGivesTheReciprocal : 2 ^ 192 ≤ twoTo255.m.toNat ∧ isPowerOfTwo twoTo255.m = true := by
  decide +kernel

/-- Both clauses, at the boundary. -/
theorem witness_ModulusConstructionNeverCorrupts :
    (2 ^ 192 - 1 : W256).toNat < 2 ^ 192 ∧ 2 ^ 192 ≤ (2 ^ 192 : W256).toNat := by decide +kernel

theorem witness_ModsetFillsTheSlot :
    (3 : SlotIx).toNat < plain.M.length ∧ plain.hasModulus 3 = false ∧ 2 ^ 192 ≤ din4 (start 5 7 (2 ^ 192)) ∧
      (start 5 7 (2 ^ 192)).hasModulus 3 = false := by decide +kernel

theorem witness_ReadOutsDriveTheSlotFields : plain.modulusIs 1 twoTo255 := by decide +kernel

/-- The clause on large moduli, and the clause on operands below `2^192`. -/
theorem witness_reducer_clauses : p256.Valid ∧ 2 ^ 255 < p256.m.toNat ∧ (2 ^ 192 - 1 : W512).toNat < 2 ^ 192 := by
  decide +kernel

theorem witness_RedFourAndRgetCanonicalise :
    plain.regIs 1 { tag := 0, r := 7 } ∧ plain.modulusIs 0 p256 ∧ p256.Valid := by decide +kernel

theorem witness_RedEightReducesTheWholeDataInput : (4 : RegIx).toNat < plain.R.length ∧ plain.modulusIs 2 p256 := by
  decide +kernel

/-- Compatible by equal tags, and by equal modulus words under different tags (for ADD, SUB, MUL, EQ, NEQ). -/
theorem witness_AddAndSubFollowTheirRules :
    plain.regIs 0 { tag := 0, r := 5 } ∧ plain.regIs 1 { tag := 0, r := 7 } ∧ plain.regIs 2 { tag := 2, r := 9 } ∧
      plain.modulusIs 0 p256 ∧ plain.modulusIs 2 p256 ∧ (0 : SlotIx) ≠ 2 ∧ p256.m = p256.m := by decide +kernel

theorem witness_NegAndDblFollowTheirRules : plain.regIs 3 { tag := 1, r := 3 } ∧ plain.modulusIs 1 twoTo255 := by
  decide +kernel

/-- Equal words, under different tags; and different words. -/
theorem witness_CompareDecidesEqualityOfClasses :
    plain.regIs 0 { tag := 0, r := 5 } ∧ plain.regIs 2 { tag := 2, r := 9 } ∧ plain.regIs 3 { tag := 1, r := 3 } ∧
      plain.modulusIs 0 p256 ∧ plain.modulusIs 2 p256 ∧ plain.modulusIs 1 twoTo255 ∧ p256.Valid ∧ twoTo255.Valid ∧
      p256.m ≠ twoTo255.m := by decide +kernel

/-- Success and failure of `inv256`, and two raw values of one class. -/
theorem witness_InversionIsCorrect :
    (inv256 p256 2).2 = true ∧ (inv256 p256 p256.m).2 = false ∧ (1 : W256).toNat ≡ (p256.m + 1).toNat [MOD p256.m.toNat] := by
  decide +kernel

theorem witness_InversionLoop :
    0 < p256.m.toNat ∧ p256.m.toNat < 2 ^ 256 ∧ 0 < 2 ∧ 2 < 2 ^ 256 ∧ ¬ (2 % 2 = 0 ∧ p256.m.toNat % 2 = 0) := by
  decide +kernel

theorem witness_ExponentiationCommandsStoreTheirFunctions :
    (1 : SlotIx).toNat < plain.E.length ∧ plain.regIs 0 { tag := 0, r := 5 } ∧ plain.modulusIs 0 p256 ∧
      (4 : RegIx).toNat < plain.R.length ∧ plain.baseIs 0 baseOfOne ∧ plain.modulusIs baseOfOne.tag p256 := by decide +kernel

/-- `n` squarings modulo `p`. -/
def squareMod (p : Nat) : Nat → Nat → Nat
  | 0, a => a
  | n + 1, a => squareMod p n (a * a % p)

theorem squareMod_cast (p n a : Nat) : (squareMod p n a : ZMod p) = (a : ZMod p) ^ 2 ^ n := by
  induction n generalizing a with
  | zero => simp [squareMod]
  | succ n ih => rw [squareMod, ih, ZMod.natCast_mod, pow_succ' 2 n, pow_mul]; push_cast; ring

theorem pow_eq_cast (p k n a c : Nat) (h : squareMod p n (a ^ k) % p = c % p) : (a : ZMod p) ^ (k * 2 ^ n) = (c : ZMod p) := by
  rw [pow_mul, ← Nat.cast_pow, ← squareMod_cast, ZMod.natCast_eq_natCast_iff']
  exact h

theorem cast_ne_one {p c : Nat} (h : c % p ≠ 1 % p) : (c : ZMod p) ≠ 1 := by
  rw [← Nat.cast_one, Ne, ZMod.natCast_eq_natCast_iff']
  exact h

/-- The Lucas test with base 5 for a number `3 * 2 ^ (n + 1) + 1`. -/
theorem prime_of_lucas (p n : Nat) (hp : p = 3 * 2 ^ (n + 1) + 1) (h1 : squareMod p (n + 1) (5 ^ 3) % p = 1 % p)
    (h2 : squareMod p n (5 ^ 3) % p ≠ 1 % p) (h3 : squareMod p (n + 1) (5 ^ 1) % p ≠ 1 % p) : Nat.Prime p := by
  refine lucas_primality p ((5 : Nat) : ZMod p) ?_ fun q hq hd => ?_
  · rw [show p - 1 = 3 * 2 ^ (n + 1) by omega]
    simpa using pow_eq_cast p 3 (n + 1) 5 1 h1
  · rw [show p - 1 = 3 * 2 ^ (n + 1) by omega] at hd ⊢
    rcases (Nat.Prime.dvd_mul hq).mp hd with h | h
    · obtain rfl := (Nat.prime_dvd_prime_iff_eq hq Nat.prime_three).mp h
      rw [Nat.mul_div_cancel_left _ (by norm_num), ← one_mul (2 ^ (n + 1)), pow_eq_cast p 1 (n + 1) 5 _ rfl]
      exact cast_ne_one h3
    · obtain rfl := (Nat.prime_dvd_prime_iff_eq hq Nat.prime_two).mp (hq.dvd_of_dvd_pow h)
      rw [show 3 * 2 ^ (n + 1) / 2 = 3 * 2 ^ n by rw [pow_succ]; omega, pow_eq_cast p 3 n 5 _ rfl]
      exact cast_ne_one h2

/-- The slot of the prime `3 * 2^201 + 1`, its fields as R22 gives them. -/
def primeSlot : Modulus :=
  { m := BitVec.ofNat 256 (3 * 2 ^ 201 + 1)
    mu := BitVec.ofNat 320 ((2 ^ 512 - 1) / (3 * 2 ^ 201 + 1))
    mmu0 := BitVec.ofNat 256 ((2 ^ 256 - 1) / (3 * 2 ^ 201 + 1) * (3 * 2 ^ 201 + 1))
    mmu1 := BitVec.ofNat 256 (((2 ^ 256 - 1) / (3 * 2 ^ 201 + 1) + 1) * (3 * 2 ^ 201 + 1) - 2 ^ 256) }

/-- A valid slot with a prime modulus. -/
theorem witness_ExpComputesThePower : primeSlot.Valid ∧ Nat.Prime primeSlot.m.toNat :=
  ⟨by decide +kernel, prime_of_lucas _ 200 (by decide +kernel) (by decide +kernel) (by decide +kernel) (by decide +kernel)⟩

/-- Raw 5 and raw `m + 5` in `r0`: two states of the same classes. -/
theorem witness_OnlyClassesAreObservable :
    plain.Inv ∧ (start (p256.m + 5) 7 0).Inv ∧ plain.SameClasses (start (p256.m + 5) 7 0) ∧
      exec (.rcopy 4 0) plain = .next (after (.rcopy 4 0) plain) := by
  refine ⟨by decide +kernel, by decide +kernel, ⟨rfl, ?_, ?_, rfl, rfl, rfl, rfl, rfl, rfl⟩, rfl⟩
  · refine .cons ⟨rfl, fun slot h => ?_⟩ (.cons ⟨rfl, fun _ _ => rfl⟩ (.cons ⟨rfl, fun _ _ => rfl⟩
      (.cons ⟨rfl, fun _ _ => rfl⟩ (.cons trivial .nil))))
    have hs : p256 = slot := Option.some.inj (Option.some.inj h)
    rw [← hs]
    decide +kernel
  · exact .cons ⟨rfl, fun _ _ _ => ⟨rfl, rfl⟩⟩ (.cons trivial .nil)

/-- A block ready for a command. -/
def idleBlock : Clocked := { block := plain, phase := .ready }

/-- The pins with a command, without, and with reset. -/
def pinsOf (rst valid : Bool) : PinsIn := { rst := rst, cmdValid := valid, cmdWord := 0x30004000, cmdDin := 0 }

/-- Latency 2: one edge is inside the busy time, the second brings the response. -/
theorem witness_HandshakeAnswersAfterTheLatency :
    idleBlock.phase = .ready ∧ (pinsOf false true).rst = false ∧ (pinsOf false true).cmdValid = true ∧
      (∀ q ∈ [pinsOf false true, pinsOf false false], q.rst = false) ∧ 1 ≤ (fun _ _ _ => 2 : Latency) 0x30004000 0 plain ∧
      [pinsOf false true].length < 2 ∧ [pinsOf false true, pinsOf false false].length = 2 := by decide

theorem witness_ResetAbandonsTheCommandInFlight :
    (pinsOf true false).rst = true ∧ (pinsOf false false).rst = false ∧ (pinsOf false false).cmdValid = false ∧
      (pinsOf false true).rst = false ∧ (pinsOf false true).cmdValid = true := by decide

end Sys2Proof.Tests
end

/-! PROOF. What every command does to the state, said once (`exec_cases`), and the invariant of the block (R8, R22, R26, R33, R37,
R74) derived from it; the arithmetic of a modulus slot (R22, R94); the word chains (R15); the handshake on the clock (R66). -/

namespace Sys2Proof.Proofs

open Sys2Proof Sys2Proof.Machine

variable {i : Instr} {s t u : State}

/-! ### Source reads of the commands on residues -/

/-- The opening of a command on one residue: what it has found when it goes on to `f` (R205, R206). -/
theorem unaryReads_eq_ok {α : Type} {rd : RegIx} {f : Residue → Modulus → Except ErrCode α} {e : α} :
    (do s.needReg rd
        let z ← s.readReg rd
        let slot ← s.readModulus z.tag
        f z slot) = .ok e ↔
      ∃ z slot, s.regIs rd z ∧ s.modulusIs z.tag slot ∧ f z slot = .ok e := by
  simp only [bind_eq_ok, readReg_eq_ok, readModulus_eq_ok]
  constructor
  · rintro ⟨_, _, z, hz, slot, hslot, he⟩
    exact ⟨z, slot, hz, hslot, he⟩
  · rintro ⟨z, slot, hz, hslot, he⟩
    exact ⟨(), needReg_eq_ok.mpr (regIs_lt hz), z, hz, slot, hslot, he⟩

/-- The opening of a command on two residues: what it has found when it goes on to `f` (R205, R206). -/
theorem binaryReads_eq_ok {α : Type} {rd rs : RegIx} {f : Residue → Residue → Modulus → Modulus → Except ErrCode α}
    {e : α} :
    (do s.needReg rd
        s.needReg rs
        let z ← s.readReg rd
        let x ← s.readReg rs
        let mz ← s.readModulus z.tag
        let mx ← s.readModulus x.tag
        f z x mz mx) = .ok e ↔
      ∃ z x mz mx, s.regIs rd z ∧ s.regIs rs x ∧ s.modulusIs z.tag mz ∧ s.modulusIs x.tag mx ∧ f z x mz mx = .ok e := by
  simp only [bind_eq_ok, readReg_eq_ok, readModulus_eq_ok]
  constructor
  · rintro ⟨_, _, _, _, z, hz, x, hx, mz, hmz, mx, hmx, he⟩
    exact ⟨z, x, mz, mx, hz, hx, hmz, hmx, he⟩
  · rintro ⟨z, x, mz, mx, hz, hx, hmz, hmx, he⟩
    exact ⟨(), needReg_eq_ok.mpr (regIs_lt hz), (), needReg_eq_ok.mpr (regIs_lt hx), z, hz, x, hx, mz, hmz, mx, hmx, he⟩

/-! ### What a command may leave -/

/-- `CommandWrites i s u`: from `s`, a completed command `i` may leave `u`, up to the response. The writes are those of the
"Writes" column of R38, each with what the command has checked before it: a slot gets what `newmod` built and was invalid before
(R94, R207), a base the tables of a residue with a valid modulus (R167), a register a residue of a valid modulus or the copy of a
register (R189). -/
inductive CommandWrites (i : Instr) (s : State) : State → Prop
  | nothing : CommandWrites i s s
  | clearErr : i = .clrerr → CommandWrites i s s.clearErr
  | modulus {ms : SlotIx} {x : Modulus} : ms ∈ writesModulus i → (∀ y, ¬ s.modulusIs ms y) → newmod s.din4 = .ok x →
      CommandWrites i s (s.setModulus ms x)
  | base {es : SlotIx} {x : Residue} {slot : Modulus} : es ∈ writesBase i → s.modulusIs x.tag slot →
      CommandWrites i s (s.setBase es (newBase slot x))
  | reg {u : State} {rd : RegIx} {x : Residue} : CommandWrites i s u → rd ∈ writesReg i →
      (∃ slot, s.modulusIs x.tag slot) ∨ (∃ rs, s.regIs rs x) → CommandWrites i s (u.setReg rd x)
  | flag {u : State} {b : Bool} : CommandWrites i s u → writesFlag i = true → CommandWrites i s (u.setFlag b)

/-- A command that completes has made writes that `CommandWrites` allows. -/
def WritesOnly (i : Instr) (s : State) (r : Except ErrCode Effect) : Prop := ∀ e, r = .ok e → CommandWrites i s e.state

/-- How a command ends whose writes are those `CommandWrites` allows. -/
theorem finish_cases {r : Except ErrCode Effect} (hr : WritesOnly i s r) (h : s.finish r = .next t) :
    (∃ c, t = s.raise c) ∨ ∃ u d, CommandWrites i s u ∧ t = u.respond d := by
  obtain ⟨e, he, rfl⟩ | ⟨c, _, rfl⟩ := finish_eq_next.mp h
  · exact .inr ⟨e.state, e.dout, hr e he, rfl⟩
  · exact .inl ⟨c, rfl⟩

/-- A command on one residue that writes it back under its tag. -/
theorem unary_writesOnly {rd : RegIx} {g : Residue → Modulus → W256} {d : Residue → Modulus → W320}
    (hrd : rd ∈ writesReg i) :
    WritesOnly i s (do
      s.needReg rd
      let z ← s.readReg rd
      let slot ← s.readModulus z.tag
      return { state := s.setReg rd { z with r := g z slot }, dout := d z slot }) := by
  intro e he
  obtain ⟨z, slot, _, hslot, he⟩ := unaryReads_eq_ok.mp he
  cases he
  exact .reg .nothing hrd (.inl ⟨slot, hslot⟩)

/-- ADD and SUB: two residues, compatible, the first written back under its tag. -/
theorem additive_writesOnly {rd rs : RegIx} {g : Modulus → W256 → W256 → W256} (hrd : rd ∈ writesReg i) :
    WritesOnly i s (do
      s.needReg rd
      s.needReg rs
      let z ← s.readReg rd
      let x ← s.readReg rs
      let mz ← s.readModulus z.tag
      let mx ← s.readModulus x.tag
      needCompat z x mz mx
      return { state := s.setReg rd { z with r := g mz z.r x.r }, dout := doutNone }) := by
  intro e he
  obtain ⟨z, x, mz, mx, _, _, hmz, _, he⟩ := binaryReads_eq_ok.mp he
  obtain ⟨_, _, he⟩ := bind_eq_ok.mp he
  cases he
  exact .reg .nothing hrd (.inl ⟨mz, hmz⟩)

/-- MODGET, MUGET, MMU0GET, MMU1GET: no state changed (R97 to R100). -/
theorem readOut_writesOnly {ms : SlotIx} {field : Modulus → W320} :
    WritesOnly i s (do
      s.needModulus ms
      let slot ← s.readModulus ms
      return { state := s, dout := field slot }) := by
  intro e he
  simp only [bind_eq_ok] at he
  obtain ⟨_, _, slot, _, he⟩ := he
  cases he
  exact .nothing

/-- EQ and NEQ: both residues written back, and `FLAG`, or `FLAG` alone (R180, R181). -/
theorem compareRegs_cases {rd rs : RegIx} {answer : Bool → Bool} (hrd : rd ∈ writesReg i) (hrs : rs ∈ writesReg i)
    (hflag : writesFlag i = true) (h : compareRegs rd rs answer s = .next t) :
    (∃ c, t = s.raise c) ∨ ∃ u d, CommandWrites i s u ∧ t = u.respond d := by
  refine finish_cases (fun e he => ?_) h
  obtain ⟨z, x, mz, mx, _, _, hmz, hmx, he⟩ := binaryReads_eq_ok.mp he
  split at he <;> cases he
  · exact .flag .nothing hflag
  · exact .flag (.reg (.reg .nothing hrd (.inl ⟨mz, hmz⟩)) hrs (.inl ⟨mx, hmx⟩)) hflag

/-- MUL: the residue of `rd` written back, by both of its paths (R142). -/
theorem execMul_cases {rd rs : RegIx} (hrd : rd ∈ writesReg i) (h : execMul rd rs s = .next t) :
    (∃ c, t = s.raise c) ∨ ∃ u d, CommandWrites i s u ∧ t = u.respond d := by
  refine finish_cases (fun e he => ?_) h
  simp only [bind_eq_ok, readModulus_eq_ok] at he
  obtain ⟨_, _, _, _, z, _, x, _, mz, hmz, he⟩ := he
  have writesBack : ∀ r, CommandWrites i s (s.setReg rd { z with r := r }) := fun r =>
    .reg .nothing hrd (.inl ⟨mz, hmz⟩)
  split at he
  · cases he
    exact writesBack _
  · simp only [bind_eq_ok] at he
    obtain ⟨_, _, _, _, he⟩ := he
    cases he
    exact writesBack _

/-- What a command does: it faults and its state is the one it started from, or it completes and leaves what its row of R38
allows, with a response. -/
theorem exec_cases (h : exec i s = .next t) : (∃ c, t = s.raise c) ∨ ∃ u d, CommandWrites i s u ∧ t = u.respond d := by
  cases i with
  | nop => exact finish_cases (r := .ok { state := s, dout := doutNone }) (fun e he => by cases he; exact .nothing) h
  | clrerr =>
    exact finish_cases (r := .ok { state := s.clearErr, dout := doutNone }) (fun e he => by cases he; exact .clearErr rfl) h
  | modset ms =>
    refine finish_cases (fun e he => ?_) h
    simp only [bind_eq_ok] at he
    obtain ⟨_, _, _, hfree, x, hx, he⟩ := he
    cases he
    exact .modulus (by simp [writesModulus]) (needFree_eq_ok.mp hfree) hx
  | modget ms => exact finish_cases readOut_writesOnly h
  | muget ms => exact finish_cases readOut_writesOnly h
  | mmu0get ms => exact finish_cases readOut_writesOnly h
  | mmu1get ms => exact finish_cases readOut_writesOnly h
  | rset rd ms =>
    refine finish_cases (fun e he => ?_) h
    simp only [bind_eq_ok, readModulus_eq_ok] at he
    obtain ⟨_, _, _, _, slot, hslot, he⟩ := he
    cases he
    exact .reg .nothing (by simp [writesReg]) (.inl ⟨slot, hslot⟩)
  | rget rd => exact finish_cases (unary_writesOnly (by simp [writesReg])) h
  | rcopy rd rs =>
    refine finish_cases (fun e he => ?_) h
    simp only [bind_eq_ok, readReg_eq_ok] at he
    obtain ⟨_, _, _, _, x, hx, he⟩ := he
    cases he
    exact .reg .nothing (by simp [writesReg]) (.inr ⟨rs, hx⟩)
  | red4 rd => exact finish_cases (unary_writesOnly (by simp [writesReg])) h
  | red8 rd ms =>
    refine finish_cases (fun e he => ?_) h
    simp only [bind_eq_ok, readModulus_eq_ok] at he
    obtain ⟨_, _, _, _, slot, hslot, he⟩ := he
    cases he
    exact .reg .nothing (by simp [writesReg]) (.inl ⟨slot, hslot⟩)
  | add rd rs => exact finish_cases (additive_writesOnly (by simp [writesReg])) h
  | sub rd rs => exact finish_cases (additive_writesOnly (by simp [writesReg])) h
  | neg rd => exact finish_cases (unary_writesOnly (by simp [writesReg])) h
  | dbl rd => exact finish_cases (unary_writesOnly (by simp [writesReg])) h
  | mul rd rs => exact execMul_cases (by simp [writesReg]) h
  | sqr rd => exact finish_cases (unary_writesOnly (by simp [writesReg])) h
  | eq rd rs => exact compareRegs_cases (by simp [writesReg]) (by simp [writesReg]) rfl h
  | neq rd rs => exact compareRegs_cases (by simp [writesReg]) (by simp [writesReg]) rfl h
  | inv rd =>
    refine finish_cases (fun e he => ?_) h
    obtain ⟨z, slot, _, hslot, he⟩ := unaryReads_eq_ok.mp he
    cases he
    exact .flag (.reg .nothing (by simp [writesReg]) (.inl ⟨slot, hslot⟩)) rfl
  | exp rd => exact finish_cases (unary_writesOnly (by simp [writesReg])) h
  | expb es rs =>
    refine finish_cases (fun e he => ?_) h
    simp only [bind_eq_ok, readModulus_eq_ok] at he
    obtain ⟨_, _, _, _, x, _, slot, hslot, he⟩ := he
    cases he
    exact .base (by simp [writesBase]) hslot
  | expp rd es =>
    refine finish_cases (fun e he => ?_) h
    simp only [bind_eq_ok, readModulus_eq_ok] at he
    obtain ⟨_, _, _, _, base, _, slot, hslot, he⟩ := he
    cases he
    exact .reg .nothing (by simp [writesReg]) (.inl ⟨slot, hslot⟩)

/-- Every command answers a next state (R213). -/
theorem exec_isNext (i : Instr) (s : State) : ∃ t, exec i s = .next t := by
  cases i
  case nop | clrerr => exact ⟨_, rfl⟩
  all_goals exact finish_isNext _

/-! ### The sizes and the host's side -/

theorem CommandWrites.params (h : CommandWrites i s u) : u.params = s.params := by
  induction h <;> simp [*]

/-- The sampled command and the host's side are no element that a command writes (R31, R38). -/
theorem CommandWrites.host (h : CommandWrites i s u) :
    u.cmdWord = s.cmdWord ∧ u.cmdDin = s.cmdDin ∧ u.pending = s.pending ∧ u.cmdIndex = s.cmdIndex := by
  induction h <;> simp [*]

/-- Settles O24: by the two ways a command ends, and the writes of a completed one. -/
theorem commandsLeaveSizesAndHostAlone : Obligations.CommandsLeaveSizesAndHostAlone := by
  unfold Obligations.CommandsLeaveSizesAndHostAlone
  intro i s t h
  obtain ⟨c, rfl⟩ | ⟨u, d, hu, rfl⟩ := exec_cases h
  · exact ⟨rfl, rfl, rfl, rfl, rfl⟩
  · exact ⟨hu.params, hu.host⟩

/-! ### The fields of a modulus slot (R17, R22, R94) -/

theorem toNat_ofNat_of_lt {w n : Nat} (h : n < 2 ^ w) : (BitVec.ofNat w n).toNat = n := by
  rw [BitVec.toNat_ofNat, Nat.mod_eq_of_lt h]

section Arithmetic

variable {m : Nat}

theorem recip_mul_le (m : Nat) : recip m * m ≤ 2 ^ 512 - 1 := Nat.div_mul_le_self _ m

theorem le_recip_mul_add (hm : 0 < m) : 2 ^ 512 ≤ recip m * m + m := by
  have h : 2 ^ 512 - 1 < (recip m + 1) * m := Nat.lt_mul_of_div_lt (Nat.lt_succ_self _) hm
  rw [Nat.add_mul, Nat.one_mul] at h
  omega

theorem multiplier_mul_le (m : Nat) : multiplier m * m ≤ 2 ^ 256 - 1 := Nat.div_mul_le_self _ m

theorem le_multiplier_mul_add (hm : 0 < m) : 2 ^ 256 ≤ multiplier m * m + m := by
  have h : 2 ^ 256 - 1 < (multiplier m + 1) * m := Nat.lt_mul_of_div_lt (Nat.lt_succ_self _) hm
  rw [Nat.add_mul, Nat.one_mul] at h
  omega

/-- A reciprocal fits its five words (R90). -/
theorem recip_lt (hm : 2 ^ 192 ≤ m) : recip m < 2 ^ 320 := by
  have h : recip m ≤ (2 ^ 512 - 1) / 2 ^ 192 := Nat.div_le_div_left hm (by norm_num)
  omega

/-- `k` fits one word (R17). -/
theorem multiplier_lt (hm : 2 ^ 192 ≤ m) : multiplier m < 2 ^ 64 := by
  have h : multiplier m ≤ (2 ^ 256 - 1) / 2 ^ 192 := Nat.div_le_div_left hm (by norm_num)
  omega

theorem multiplier_pos (hm : 0 < m) (hlt : m < 2 ^ 256) : 0 < multiplier m := Nat.div_pos (by omega) hm

/-- The two divisions by `m` and by `2^256` commute, so the top word of the reciprocal is `k`. -/
theorem recip_div (m : Nat) : recip m / 2 ^ 256 = multiplier m := by
  calc recip m / 2 ^ 256 = (2 ^ 512 - 1) / 2 ^ 256 / m := by
        rw [recip, Nat.div_div_eq_div_mul, Nat.mul_comm, ← Nat.div_div_eq_div_mul]
    _ = multiplier m := by rw [multiplier, show (2 ^ 512 - 1) / 2 ^ 256 = 2 ^ 256 - 1 by omega]

/-- `mu[4] = k` (R22). -/
theorem topWord_eq_multiplier {mu : W320} (hm : 2 ^ 192 ≤ m) (hmu : mu.toNat = recip m) :
    (wordOf mu 4).toNat = multiplier m := by
  rw [wordOf, hmu, show 64 * 4 = 256 from rfl, recip_div, toNat_ofNat_of_lt (multiplier_lt hm)]

/-- `m[3] = 0` says that `m` is below `2^192` (R91, R94). -/
theorem wordOf_three_eq_zero_iff (m : W256) : wordOf m 3 = 0 ↔ m.toNat < 2 ^ 192 := by
  have hm := m.isLt
  rw [← BitVec.toNat_inj, wordOf, BitVec.toNat_ofNat, show (0 : W64).toNat = 0 from rfl]
  omega

end Arithmetic

/-- What `newmod` builds is a constructed modulus, with the modulus it was given (R94, R95). -/
theorem newmod_valid {m : W256} {x : Modulus} (h : newmod m = .ok x) : x.m = m ∧ x.Valid := by
  unfold newmod at h
  split at h
  · cases h
  next hword =>
  have hm : 2 ^ 192 ≤ m.toNat := Nat.le_of_not_lt (mt (wordOf_three_eq_zero_iff m).mpr hword)
  have hmu : (BitVec.ofNat 320 (recip m.toNat)).toNat = recip m.toNat := toNat_ofNat_of_lt (recip_lt hm)
  have hk := multiplier_mul_le m.toNat
  have hk1 := le_multiplier_mul_add (m := m.toNat) (by omega)
  have htop := topWord_eq_multiplier hm hmu
  obtain ⟨_, he⟩ | ⟨_, _, he⟩ | ⟨_, _, he⟩ := newmodWith_cases _ m (multiplier m.toNat * m.toNat) (by rw [htop])
    <;> rw [he] at h <;> cases h
  refine ⟨rfl, hm, hmu, ?_, ?_⟩
  · exact toNat_ofNat_of_lt (by omega)
  · have hlt := m.isLt
    have hmmu1 : multiplier m.toNat * m.toNat + m.toNat - 2 ^ 256 < 2 ^ 256 := by omega
    calc _ = multiplier m.toNat * m.toNat + m.toNat - 2 ^ 256 + 2 ^ 256 := congrArg (· + 2 ^ 256) (toNat_ofNat_of_lt hmmu1)
      _ = multiplier m.toNat * m.toNat + m.toNat := Nat.sub_add_cancel hk1
      _ = (multiplier m.toNat + 1) * m.toNat := (Nat.succ_mul _ _).symm

/-- Settles O32: from the division bounds of `recip` and `multiplier`. -/
theorem validSlotSatisfiesItsInequalities : Obligations.ValidSlotSatisfiesItsInequalities := by
  unfold Obligations.ValidSlotSatisfiesItsInequalities
  rintro x ⟨hm, hmu, h0, h1⟩
  have hpos : 0 < x.m.toNat := by omega
  have hrecip := recip_mul_le x.m.toNat
  have hrecip1 := le_recip_mul_add hpos
  have hk := multiplier_mul_le x.m.toNat
  have hk1 := le_multiplier_mul_add hpos
  have hmmu0 : x.m.toNat ≤ multiplier x.m.toNat * x.m.toNat := Nat.le_mul_of_pos_left _ (multiplier_pos hpos x.m.isLt)
  rw [Nat.add_mul, Nat.one_mul] at h1
  rw [hmu, h0]
  exact ⟨topWord_eq_multiplier hm hmu, by omega, hrecip1, hk1, by omega, hmmu0, by omega⟩

/-! ### The invariant (R8, R22, R26, R33, R37, R74) -/

/-- An entry of a bank after one write is the value written or an entry from before. -/
theorem forall_mem_set {α : Type} {l : List (Option α)} {k : Nat} {x : α} {P : α → Prop} (hx : P x)
    (hl : ∀ o ∈ l, ∀ y ∈ o, P y) :
    ∀ o ∈ l.set k (some x), ∀ y ∈ o, P y := by
  intro o ho y hy
  obtain hmem | rfl := List.mem_or_eq_of_mem_set ho
  · exact hl o hmem y hy
  · cases hy
    exact hx

/-- A bank after reset holds no valid entry (R36). -/
theorem forall_mem_replicate_none {α : Type} {n : Nat} {P : α → Prop} :
    ∀ o ∈ List.replicate n (none : Option α), ∀ x ∈ o, P x := by
  intro o ho x hx
  rw [List.eq_of_mem_replicate ho] at hx
  cases hx

/-- A command makes no valid slot invalid, and keeps what it holds (R23). -/
theorem CommandWrites.modulusIs (h : CommandWrites i s u) {ms : SlotIx} {x : Modulus} (hx : s.modulusIs ms x) :
    u.modulusIs ms x := by
  induction h with
  | nothing | clearErr | base | reg | flag => assumption
  | @modulus ms' x' _ hfree _ =>
    have hne : ms.toNat ≠ ms'.toNat := fun he => hfree x (by rwa [State.modulusIs, ← he])
    rwa [State.modulusIs, setModulus_getElem?_ne hne]

theorem CommandWrites.hasModulus (h : CommandWrites i s u) {ms : SlotIx} (hms : s.hasModulus ms = true) :
    u.hasModulus ms = true := by
  obtain ⟨x, hx⟩ := hasModulus_iff.mp hms
  exact hasModulus_iff.mpr ⟨x, h.modulusIs hx⟩

/-- The only modulus a command writes is one that `newmod` built. -/
theorem CommandWrites.moduliValid (h : CommandWrites i s u) (hs : s.ModuliValid) : u.ModuliValid := by
  induction h with
  | nothing | clearErr | base => exact hs
  | modulus _ _ hx => exact forall_mem_set (newmod_valid hx).2 hs
  | reg _ _ _ ih | flag _ _ ih => exact ih

/-- The tag of a valid register names a valid slot (R26). -/
theorem hasModulus_of_regIs (hs : s.TagsValid) {rs : RegIx} {x : Residue} (hx : s.regIs rs x) : s.hasModulus x.tag = true :=
  hs.1 _ (List.mem_of_getElem? hx) x rfl

/-- Every tag that a command writes names a valid slot, and slots stay valid (R26, R37). -/
theorem CommandWrites.tagsValid (h : CommandWrites i s u) (hs : s.TagsValid) : u.TagsValid := by
  induction h with
  | nothing | clearErr => exact hs
  | modulus hms hfree hx =>
    have keeps {tag : SlotIx} := (CommandWrites.modulus hms hfree hx).hasModulus (ms := tag)
    exact ⟨fun o ho y hy => keeps (hs.1 o ho y hy), fun o ho y hy => keeps (hs.2 o ho y hy)⟩
  | base _ hslot => exact ⟨hs.1, forall_mem_set (hasModulus_iff.mpr ⟨_, hslot⟩) hs.2⟩
  | @reg u rd x hu _ htag ih =>
    have hx : s.hasModulus x.tag = true := by
      obtain hslot | ⟨rs, hrs⟩ := htag
      · exact hasModulus_iff.mpr hslot
      · exact hasModulus_of_regIs hs hrs
    exact ⟨forall_mem_set (hu.hasModulus hx) ih.1, ih.2⟩
  | flag _ _ ih => exact ih

theorem CommandWrites.statusLegal (h : CommandWrites i s u) (hs : s.status.Legal) : u.status.Legal := by
  induction h with
  | nothing | modulus | base => exact hs
  | clearErr => exact ⟨by simp, fun _ => rfl⟩
  | reg _ _ _ ih | flag _ _ ih => exact ih

/-- A recorded fault has a legal code, and a record with a code is no cleared one (R211). -/
theorem record_legal {st : Status} (h : st.Legal) (e : ErrCode) (w : CmdWord) : (st.record e w).Legal := by
  by_cases hclear : st.err = 0
  · rw [record_of_clear hclear]
    exact ⟨code_le e, fun hzero => absurd hzero (code_ne_zero e)⟩
  · rwa [record_of_set hclear]

theorem raise_inv (hs : s.Inv) (c : ErrCode) : (s.raise c).Inv := by
  obtain ⟨hsizes, hmoduli, htags, hstatus, _⟩ := hs
  refine ⟨hsizes, hmoduli, htags, record_legal hstatus c s.cmdWord, ?_, fun _ => ⟨code_le c, ?_, fun _ => rfl⟩⟩
  · simp
  · simp

theorem CommandWrites.respond_inv (h : CommandWrites i s u) (hs : s.Inv) (d : W320) : (u.respond d).Inv := by
  obtain ⟨hsizes, hmoduli, htags, hstatus, _⟩ := hs
  refine ⟨?_, h.moduliValid hmoduli, h.tagsValid htags, h.statusLegal hstatus, by simp, by simp⟩
  rwa [State.respond_params, h.params]

theorem exec_inv (hs : s.Inv) (h : exec i s = .next t) : t.Inv := by
  obtain ⟨c, rfl⟩ | ⟨u, d, hu, rfl⟩ := exec_cases h
  · exact raise_inv hs c
  · exact hu.respond_inv hs d

/-- What the transaction of an accepted word does: that of the command it spells, or the fault of an illegal word. -/
theorem runAccepted_cases (s : State) : (∃ i, runAccepted s = exec i s) ∨ runAccepted s = .next (s.raise .illegal) := by
  cases h : decode s.cmdWord with
  | ok i => exact .inl ⟨i, runAccepted_of_decode h⟩
  | error e => exact .inr (runAccepted_of_illegal h)

theorem runAccepted_inv (hs : s.Inv) (h : runAccepted s = .next t) : t.Inv := by
  obtain ⟨i, hi⟩ | hillegal := runAccepted_cases s
  · exact exec_inv hs (hi ▸ h)
  · rw [hillegal] at h
    cases h
    exact raise_inv hs .illegal

/-- Reset meets the invariant for any legal storage sizes: no element is valid. -/
theorem resetWith_inv {p : Params} (hp : p.Legal) : (State.resetWith p).Inv :=
  ⟨by rwa [State.resetWith_params], forall_mem_replicate_none, ⟨forall_mem_replicate_none, forall_mem_replicate_none⟩,
    ⟨Nat.zero_le 8, fun _ => rfl⟩, fun _ => rfl, fun hvalid => Bool.noConfusion hvalid⟩

theorem applyReset_inv (hs : s.Inv) (rest : List HostMove) : (s.applyReset rest).Inv := resetWith_inv hs.1

theorem idle_inv (hs : s.Inv) : s.idle.Inv := by
  obtain ⟨hsizes, hmoduli, htags, hstatus, _⟩ := hs
  exact ⟨hsizes, hmoduli, htags, hstatus, fun _ => rfl, fun hvalid => Bool.noConfusion hvalid⟩

theorem accept_inv (hs : s.Inv) (w : CmdWord) (d : W512) (rest : List HostMove) : (s.accept w d rest).Inv := hs

/-- Settles O10: both claims are the reset state of legal storage sizes. -/
theorem resetMeetsTheInvariant : Obligations.ResetMeetsTheInvariant := by
  unfold Obligations.ResetMeetsTheInvariant
  exact ⟨resetWith_inv (by decide), fun p hp => resetWith_inv hp⟩

/-- Settles O11: each of the three kinds of step keeps the invariant. -/
theorem stepKeepsTheInvariant : Obligations.StepKeepsTheInvariant := by
  unfold Obligations.StepKeepsTheInvariant
  intro s t hs h
  obtain ⟨_, hstep⟩ | ⟨rest, _, hstep⟩ | ⟨w, d, rest, _, hstep⟩ := step_cases s <;> rw [hstep] at h
  · cases h
    exact idle_inv hs
  · cases h
    exact applyReset_inv hs rest
  · exact runAccepted_inv (accept_inv hs w d rest) h

/-! ### The word chains (R15) -/

theorem wordsVal_lt (l : List W64) : wordsVal l < 2 ^ (64 * l.length) := by
  induction l with
  | nil => simp [wordsVal]
  | cons w ws ih =>
    have hw := w.isLt
    rw [wordsVal, List.length_cons, Nat.mul_succ, Nat.pow_add]
    omega

/-- A 256-bit value is the value of its four words (R11). -/
theorem wordsVal_wordList4 (v : W256) : wordsVal (wordList4 v) = v.toNat := by
  have hv := v.isLt
  simp only [wordList4, wordsVal, wordOf, BitVec.toNat_ofNat]
  omega

/-- One `adc` keeps the sum (R15). -/
theorem adc_sum (a b : W64) (c : Bool) : (adc a b c).1.toNat + 2 ^ 64 * (adc a b c).2.toNat = a.toNat + b.toNat + c.toNat := by
  have ha := a.isLt
  have hb := b.isLt
  have hc := c.toNat_le
  simp only [adc, BitVec.toNat_ofNat]
  by_cases h : 2 ^ 64 ≤ a.toNat + b.toNat + c.toNat
  · simp only [h, decide_true, Bool.toNat_true]
    omega
  · simp only [h, decide_false, Bool.toNat_false]
    omega

/-- One `sbb` keeps the difference (R15). -/
theorem sbb_difference (a b : W64) (c : Bool) :
    ((sbb a b c).1.toNat : Int) - 2 ^ 64 * (sbb a b c).2.toNat = a.toNat - b.toNat - c.toNat := by
  have ha := a.isLt
  have hb := b.isLt
  have hc := c.toNat_le
  simp only [sbb, BitVec.toNat_ofInt]
  by_cases h : (a.toNat : Int) - b.toNat - c.toNat < 0
  · simp only [h, decide_true, Bool.toNat_true]
    omega
  · simp only [h, decide_false, Bool.toNat_false]
    omega

theorem adcChain_length (as bs : List W64) (c : Bool) (h : as.length = bs.length) :
    (adcChain as bs c).1.length = as.length := by
  induction as generalizing bs c with
  | nil => simp [adcChain]
  | cons a as ih =>
    obtain ⟨b, bs, rfl⟩ := List.exists_cons_of_length_eq_add_one h.symm
    simpa [adcChain] using ih bs _ (by simpa using h)

theorem sbbChain_length (as bs : List W64) (c : Bool) (h : as.length = bs.length) :
    (sbbChain as bs c).1.length = as.length := by
  induction as generalizing bs c with
  | nil => simp [sbbChain]
  | cons a as ih =>
    obtain ⟨b, bs, rfl⟩ := List.exists_cons_of_length_eq_add_one h.symm
    simpa [sbbChain] using ih bs _ (by simpa using h)

/-- The chain of `adc` over any number of words is the exact sum. -/
theorem adcChain_sum (as bs : List W64) (c : Bool) (h : as.length = bs.length) :
    wordsVal (adcChain as bs c).1 + 2 ^ (64 * as.length) * (adcChain as bs c).2.toNat = wordsVal as + wordsVal bs + c.toNat := by
  induction as generalizing bs c with
  | nil =>
    obtain rfl := List.length_eq_zero_iff.mp h.symm
    simp [adcChain, wordsVal]
  | cons a as ih =>
    obtain ⟨b, bs, rfl⟩ := List.exists_cons_of_length_eq_add_one h.symm
    have hfirst := adc_sum a b c
    have hrest := ih bs (adc a b c).2 (by simpa using h)
    simp only [adcChain, wordsVal, List.length_cons, Nat.mul_succ, pow_add]
    linear_combination 2 ^ 64 * hrest + hfirst

/-- The chain of `sbb` over any number of words is the exact difference. -/
theorem sbbChain_difference (as bs : List W64) (c : Bool) (h : as.length = bs.length) :
    (wordsVal (sbbChain as bs c).1 : Int) - 2 ^ (64 * as.length) * (sbbChain as bs c).2.toNat =
      wordsVal as - wordsVal bs - c.toNat := by
  induction as generalizing bs c with
  | nil =>
    obtain rfl := List.length_eq_zero_iff.mp h.symm
    simp [sbbChain, wordsVal]
  | cons a as ih =>
    obtain ⟨b, bs, rfl⟩ := List.exists_cons_of_length_eq_add_one h.symm
    have hfirst := sbb_difference a b c
    have hrest := ih bs (sbb a b c).2 (by simpa using h)
    simp only [sbbChain, wordsVal, List.length_cons, Nat.mul_succ, pow_add, Nat.cast_add, Nat.cast_mul]
    push_cast
    linear_combination 2 ^ 64 * hrest + hfirst

/-- Settles O45: the general sums of the chains at four words; the words are below `2^256`, which fixes carry and borrow. -/
theorem wordChainsAddAndSubtractExactly : Obligations.WordChainsAddAndSubtractExactly := by
  unfold Obligations.WordChainsAddAndSubtractExactly
  intro z x
  have hlen : (wordList4 z).length = (wordList4 x).length := rfl
  have hadd := adcChain_sum (wordList4 z) (wordList4 x) false hlen
  have hsub := sbbChain_difference (wordList4 z) (wordList4 x) false hlen
  have haddLt := wordsVal_lt (adcChain (wordList4 z) (wordList4 x) false).1
  have hsubLt := wordsVal_lt (sbbChain (wordList4 z) (wordList4 x) false).1
  rw [adcChain_length _ _ _ hlen] at haddLt
  rw [sbbChain_length _ _ _ hlen] at hsubLt
  simp only [wordsVal_wordList4, show (wordList4 z).length = 4 from rfl, Bool.toNat_false, Nat.add_zero, Nat.cast_zero,
    sub_zero, Nat.reduceMul] at hadd hsub haddLt hsubLt
  refine ⟨hadd, ?_, hsub, ?_⟩
  · cases hcarry : (adcChain (wordList4 z) (wordList4 x) false).2 <;> rw [hcarry] at hadd <;>
      simp only [Bool.toNat_false, Bool.toNat_true] at hadd <;> symm
    · exact decide_eq_false (by omega)
    · exact decide_eq_true (by omega)
  · cases hborrow : (sbbChain (wordList4 z) (wordList4 x) false).2 <;> rw [hborrow] at hsub <;>
      simp only [Bool.toNat_false, Bool.toNat_true] at hsub <;> symm
    · exact decide_eq_false (by omega)
    · exact decide_eq_true (by omega)

/-! ### The handshake (R66) -/

/-- One check or read of a command: it is the same with the response pins cleared, and a fault overwrites them. -/
theorem finish_idle_bind {α : Type} {x : Except ErrCode α} {k k' : α → Except ErrCode Effect}
    (h : ∀ a, s.idle.finish (k a) = s.finish (k' a)) : s.idle.finish (x >>= k) = s.finish (x >>= k') := by
  cases x with
  | ok a => exact h a
  | error c => rfl

theorem finish_idle_ite {p : Prop} [Decidable p] {a b a' b' : Except ErrCode Effect} (ha : s.idle.finish a = s.finish a')
    (hb : s.idle.finish b = s.finish b') : s.idle.finish (if p then a else b) = s.finish (if p then a' else b') := by
  split <;> assumption

theorem compareRegs_idle (rd rs : RegIx) (answer : Bool → Bool) (s : State) :
    compareRegs rd rs answer s.idle = compareRegs rd rs answer s :=
  finish_idle_bind fun _ => finish_idle_bind fun _ => finish_idle_bind fun _ => finish_idle_bind fun _ =>
    finish_idle_bind fun _ => finish_idle_bind fun _ => finish_idle_ite rfl rfl

theorem execMul_idle (rd rs : RegIx) (s : State) : execMul rd rs s.idle = execMul rd rs s :=
  finish_idle_bind fun _ => finish_idle_bind fun _ => finish_idle_bind fun _ => finish_idle_bind fun _ =>
    finish_idle_bind fun _ => finish_idle_ite rfl (finish_idle_bind fun _ => finish_idle_bind fun _ => rfl)

/-- No command reads the response pins, and every command overwrites them (R66, R74). -/
theorem exec_idle (i : Instr) (s : State) : exec i s.idle = exec i s := by
  cases i
  case nop | clrerr => rfl
  case eq rd rs => exact compareRegs_idle rd rs id s
  case neq rd rs => exact compareRegs_idle rd rs neqFlag s
  case mul rd rs => exact execMul_idle rd rs s
  case modset | modget | muget | mmu0get | mmu1get | rset | rget | rcopy | red4 | red8 | add | sub | neg | dbl | sqr | inv | exp
      | expb | expp =>
    repeat refine finish_idle_bind fun _ => ?_
    rfl

theorem runAccepted_idle (s : State) : runAccepted s.idle = runAccepted s := by
  cases h : decode s.cmdWord with
  | ok i => rw [runAccepted_of_decode h, runAccepted_of_decode (s := s.idle) h, exec_idle]
  | error e => rw [runAccepted_of_illegal h, runAccepted_of_illegal (s := s.idle) h]; rfl

/-- Every transaction answers, with `rsp_valid = 1` (R66, R213). -/
theorem runAccepted_answers (s : State) : ∃ t, runAccepted s = .next t ∧ t.rsp.valid = true := by
  obtain ⟨i, hi⟩ | hillegal := runAccepted_cases s
  · obtain ⟨t, ht⟩ := exec_isNext i s
    refine ⟨t, hi.trans ht, ?_⟩
    obtain ⟨c, rfl⟩ | ⟨u, d, _, rfl⟩ := exec_cases ht <;> rfl
  · exact ⟨_, hillegal, rfl⟩

theorem answered_of_runAccepted (h : runAccepted s = .next t) : s.answered = t := by
  simp [State.answered, h]

section Clock

variable {lat : Latency} {b : State} {n : Nat} {ps : List PinsIn}

/-- Before the last of its `n` edges a busy block stays busy and holds its state, whatever the host drives (R66). -/
theorem clockRun_busy (hidle : b.idle = b) (hrst : ∀ q ∈ ps, q.rst = false) (hlen : ps.length < n) :
    clockRun lat { block := b, phase := .busy n } ps = { block := b, phase := .busy (n - ps.length) } := by
  induction ps generalizing n with
  | nil => rfl
  | cons q qs ih =>
    obtain ⟨hq, hqs⟩ := List.forall_mem_cons.mp hrst
    rw [List.length_cons] at hlen
    have hedge : clockEdge lat { block := b, phase := .busy n } q = { block := b, phase := .busy (n - 1) } := by
      simp [clockEdge, hq, hidle, show ¬ n ≤ 1 by omega]
    rw [clockRun, hedge, ih hqs (by omega), List.length_cons, Nat.sub_sub, Nat.add_comm 1]

theorem clockRun_append (c : Clocked) (ps qs : List PinsIn) :
    clockRun lat c (ps ++ qs) = clockRun lat (clockRun lat c ps) qs := by
  induction ps generalizing c with
  | nil => rfl
  | cons p ps ih => exact ih _

/-- The last of its edges brings the response (R66). -/
theorem clockRun_busy_last (hidle : b.idle = b) (hrst : ∀ q ∈ ps, q.rst = false) (hpos : 1 ≤ n) (hlen : ps.length = n) :
    clockRun lat { block := b, phase := .busy n } ps = { block := b.answered, phase := .ready } := by
  obtain ⟨qs, q, rfl⟩ := List.eq_nil_or_concat' ps |>.resolve_left (by rintro rfl; simp at hlen; omega)
  rw [List.length_append, List.length_singleton] at hlen
  have hqs : ∀ p ∈ qs, p.rst = false := fun p hp => hrst p (List.mem_append_left _ hp)
  rw [clockRun_append, clockRun_busy hidle hqs (by omega)]
  simp [clockRun, clockEdge, hrst q, show n - qs.length ≤ 1 by omega]

end Clock

/-- Settles O58: acceptance makes the block busy for `LAT` edges, and the transaction does not read the response pins, which the
busy block holds at 0. -/
theorem handshakeAnswersAfterTheLatency : Obligations.HandshakeAnswersAfterTheLatency := by
  unfold Obligations.HandshakeAnswersAfterTheLatency
  intro lat c p ps hready hrst hvalid hps hlat
  have haccept : clockEdge lat c p =
      { block := (c.block.accept p.cmdWord p.cmdDin c.block.pending).idle
        phase := .busy (lat p.cmdWord p.cmdDin c.block) } := by
    simp [clockEdge, hready, hrst, hvalid]
  rw [haccept]
  constructor
  · intro hlen
    rw [clockRun_busy rfl hps hlen]
    exact ⟨rfl, rfl⟩
  · intro hlen
    obtain ⟨t, ht, htvalid⟩ := runAccepted_answers (c.block.accept p.cmdWord p.cmdDin c.block.pending)
    refine ⟨t, ht, ?_⟩
    rw [clockRun_busy_last rfl hps hlat hlen, answered_of_runAccepted ((runAccepted_idle _).trans ht)]
    exact ⟨rfl, htvalid⟩

end Sys2Proof.Proofs

/-! PROOF. The state of the block (`spec/10_state.md`): reset (R231), the write-once slots (R23), what a command leaves alone
(R32, R38), incompatible moduli (R203), modulus construction (R94, R95), and the tables of a base (R30, R166), which need that
`reduce8` keeps the class of its operand (R114). -/

namespace Sys2Proof.Proofs

open Sys2Proof Sys2Proof.Machine Sys2Proof.Claims

variable {i : Instr} {s t u : State}

/-! ### What a step and a fault leave, and what an element holds -/

/-- What the transaction of an accepted word leaves: the state of a fault, illegal words included, or the writes of a command. -/
theorem runAccepted_ends (h : runAccepted s = .next t) :
    (∃ c, t = s.raise c) ∨ ∃ i u d, CommandWrites i s u ∧ t = u.respond d := by
  obtain ⟨i, hi⟩ | hillegal := runAccepted_cases s
  · exact (exec_cases (hi ▸ h)).imp_right fun ⟨u, d, hu⟩ => ⟨i, u, d, hu⟩
  · rw [hillegal] at h
    cases h
    exact .inl ⟨.illegal, rfl⟩

/-- What a step leaves: an idle cycle, a reset if the host's move is one, or how an accepted word ends. -/
theorem step_ends (h : step s = .next t) :
    t = s.idle ∨ (∃ rest, s.pending = .reset :: rest ∧ t = s.applyReset rest) ∨
      ∃ w din rest, (∃ c, t = (s.accept w din rest).raise c) ∨
        ∃ i u d, CommandWrites i (s.accept w din rest) u ∧ t = u.respond d := by
  obtain ⟨_, hstep⟩ | ⟨rest, hreset, hstep⟩ | ⟨w, din, rest, _, hstep⟩ := step_cases s <;> rw [hstep] at h
  · cases h
    exact .inl rfl
  · cases h
    exact .inr (.inl ⟨rest, hreset, rfl⟩)
  · exact .inr (.inr ⟨w, din, rest, runAccepted_ends h⟩)

/-- Taking a fault, as the statements write it (R210, R211). -/
theorem raise_eq_faulted (s : State) (c : ErrCode) : s.raise c = faulted s c.code := rfl

theorem regIs_unique {rd : RegIx} {x y : Residue} (hx : s.regIs rd x) (hy : s.regIs rd y) : x = y :=
  Option.some.inj (Option.some.inj (hx.symm.trans hy))

theorem modulusIs_unique {ms : SlotIx} {x y : Modulus} (hx : s.modulusIs ms x) (hy : s.modulusIs ms y) : x = y :=
  Option.some.inj (Option.some.inj (hx.symm.trans hy))

/-- Settles O7: a reset move is `applyReset`, which gives the reset state for the sizes of the banks. -/
theorem resetInvalidatesEverything : Obligations.ResetInvalidatesEverything := by
  unfold Obligations.ResetInvalidatesEverything
  intro s rest hpending
  have hstep : step s = .next (s.applyReset rest) := by rw [step, takeMove, hpending]
  exact hstep

/-! ### What a completed command leaves alone (R32, R38) -/

theorem CommandWrites.getElem?_R (h : CommandWrites i s u) {k : Nat} (hk : ∀ r ∈ writesReg i, r.toNat ≠ k) :
    u.R[k]? = s.R[k]? := by
  induction h with
  | nothing | clearErr | modulus | base => rfl
  | reg _ hrd _ ih => rw [setReg_getElem?_ne (hk _ hrd).symm, ih]
  | flag _ _ ih => exact ih

theorem CommandWrites.getElem?_M (h : CommandWrites i s u) {k : Nat} (hk : ∀ r ∈ writesModulus i, r.toNat ≠ k) :
    u.M[k]? = s.M[k]? := by
  induction h with
  | nothing | clearErr | base => rfl
  | modulus hms _ _ => exact setModulus_getElem?_ne (hk _ hms).symm
  | reg _ _ _ ih | flag _ _ ih => exact ih

theorem CommandWrites.getElem?_E (h : CommandWrites i s u) {k : Nat} (hk : ∀ r ∈ writesBase i, r.toNat ≠ k) :
    u.E[k]? = s.E[k]? := by
  induction h with
  | nothing | clearErr | modulus => rfl
  | base hes _ => exact setBase_getElem?_ne (hk _ hes).symm
  | reg _ _ _ ih | flag _ _ ih => exact ih

theorem CommandWrites.flag_eq (h : CommandWrites i s u) (hi : writesFlag i = false) : u.status.flag = s.status.flag := by
  induction h with
  | nothing | clearErr | modulus | base => rfl
  | reg _ _ _ ih => exact ih
  | flag _ hflag _ => exact Bool.noConfusion (hflag.symm.trans hi)

/-- Settles O22: a fault changes no element, and a completed command only those of its row. -/
theorem unnamedElementsAreUnchanged : Obligations.UnnamedElementsAreUnchanged := by
  unfold Obligations.UnnamedElementsAreUnchanged
  intro i s t h k
  obtain ⟨c, rfl⟩ | ⟨u, d, hu, rfl⟩ := exec_cases h
  · exact ⟨fun _ => rfl, fun _ => rfl, fun _ => rfl⟩
  · exact ⟨hu.getElem?_R, hu.getElem?_M, hu.getElem?_E⟩

/-- Settles O23: a fault's record keeps `FLAG`, and both kinds of response repeat it. -/
theorem onlyCompareAndInverseWriteTheFlag : Obligations.OnlyCompareAndInverseWriteTheFlag := by
  unfold Obligations.OnlyCompareAndInverseWriteTheFlag
  intro i s t h
  obtain ⟨c, rfl⟩ | ⟨u, d, hu, rfl⟩ := exec_cases h
  · have hkept : (s.raise c).status.flag = s.status.flag := record_flag _ _ _
    exact ⟨fun _ => hkept, hkept.symm, rfl⟩
  · exact ⟨hu.flag_eq, rfl, rfl⟩

/-! ### The modulus slots (R23) -/

theorem mem_writesModulus {ms : SlotIx} (h : ms ∈ writesModulus i) : i = .modset ms := by
  cases i with
  | modset ms' => rw [List.mem_singleton.mp h]
  | _ => cases h

theorem CommandWrites.M_eq (h : CommandWrites i s u) (hi : ∀ ms, i ≠ .modset ms) : u.M = s.M :=
  List.ext_getElem? fun _ => h.getElem?_M fun ms hms => absurd (mem_writesModulus hms) (hi ms)

/-- `MODSET` on a valid slot (R207). -/
theorem execModset_of_valid {ms : SlotIx} {x : Modulus} (hx : s.modulusIs ms x) :
    exec (.modset ms) s = .next (s.raise .modBusy) := by
  have hindex : s.needModulus ms = .ok () := needModulus_eq_ok.mpr (modulusIs_lt hx)
  have hbusy : s.needFree ms = .error .modBusy := needFree_eq_error.mpr ⟨⟨x, hx⟩, rfl⟩
  calc exec (.modset ms) s = execModset ms s := rfl
    _ = .next (s.raise .modBusy) := by rw [execModset, hindex, hbusy]; rfl

/-- Settles O13: the writes of a command reach no valid slot, and are none of `M` but for `MODSET`. -/
theorem modulusSlotsAreWriteOnce : Obligations.ModulusSlotsAreWriteOnce := by
  unfold Obligations.ModulusSlotsAreWriteOnce
  refine ⟨fun s t ms x hx hnoReset h => ?_, fun i s t h hM => ?_, fun ms s x hx => execModset_of_valid hx⟩
  · obtain rfl | ⟨rest, hreset, _⟩ | ⟨w, din, rest, ⟨c, rfl⟩ | ⟨i, u, d, hu, rfl⟩⟩ := step_ends h
    · exact hx
    · exact absurd hreset (hnoReset rest)
    · exact hx
    · exact hu.modulusIs hx
  · obtain ⟨c, rfl⟩ | ⟨u, d, hu, rfl⟩ := exec_cases h
    · exact absurd rfl hM
    · by_contra hi
      exact hM (hu.M_eq (not_exists.mp hi))

/-! ### Incompatible moduli (R203) -/

section Incompatible

variable {rd rs : RegIx} {z x : Residue} {mz mx : Modulus}

/-- The opening of a command on two residues whose reads succeed: it goes on to `f` with what they found (R205, R206). -/
theorem binaryReads_bind {α : Type} {f : Residue → Residue → Modulus → Modulus → Except ErrCode α} (hz : s.regIs rd z)
    (hx : s.regIs rs x) (hmz : s.modulusIs z.tag mz) (hmx : s.modulusIs x.tag mx) :
    (do s.needReg rd
        s.needReg rs
        let z ← s.readReg rd
        let x ← s.readReg rs
        let mz ← s.readModulus z.tag
        let mx ← s.readModulus x.tag
        f z x mz mx) = f z x mz mx := by
  simp only [needReg_eq_ok.mpr (regIs_lt hz), needReg_eq_ok.mpr (regIs_lt hx), readReg_eq_ok.mpr hz, readReg_eq_ok.mpr hx,
    readModulus_eq_ok.mpr hmz, readModulus_eq_ok.mpr hmx, ok_bind]

/-- A command that needs compatible operands ends with `E_INCOMPAT`, code 4, when they are not (R203). -/
theorem finish_needCompat_of_ne {f : Unit → Except ErrCode Effect} (htag : z.tag ≠ x.tag) (hm : mz.m ≠ mx.m) :
    s.finish (needCompat z x mz mx >>= f) = .next (faulted s 4) := by
  rw [needCompat_eq_error.mpr ⟨⟨htag, hm⟩, rfl⟩, error_bind, finish_error, raise_eq_faulted, ErrCode.code]

/-- `MUL` of two registers opens as the other commands on two residues do (R142). -/
theorem execMul_of_ne (hne : rd ≠ rs) (hz : s.regIs rd z) (hx : s.regIs rs x) (hmz : s.modulusIs z.tag mz)
    (hmx : s.modulusIs x.tag mx) :
    execMul rd rs s = s.finish (do
      needCompat z x mz mx
      return { state := s.setReg rd { z with r := mulmod mz z.r x.r }, dout := doutNone }) := by
  simp only [execMul, if_neg hne]
  rw [binaryReads_bind hz hx hmz hmx]

/-- Settles O19: the reads succeed, and the compatibility check is what fails; two tags name two registers. -/
theorem differentModuliAreIncompatible : Obligations.DifferentModuliAreIncompatible := by
  unfold Obligations.DifferentModuliAreIncompatible
  intro rd rs s z x mz mx hz hx hmz hmx htag hm
  have hne : rd ≠ rs := by
    rintro rfl
    exact htag (congrArg Residue.tag (regIs_unique hz hx))
  have hincompat {f} := finish_needCompat_of_ne (s := s) (f := f) htag hm
  exact ⟨(congrArg s.finish (binaryReads_bind hz hx hmz hmx)).trans hincompat,
    (congrArg s.finish (binaryReads_bind hz hx hmz hmx)).trans hincompat,
    (execMul_of_ne hne hz hx hmz hmx).trans hincompat⟩

end Incompatible

/-! ### Modulus construction (R94, R95) -/

theorem newmod_of_lt {m : W256} (hm : m.toNat < 2 ^ 192) : newmod m = .error .modRange :=
  if_pos ((wordOf_three_eq_zero_iff m).mpr hm)

/-- The two self-tests pass: `k*m` is below `2^256` and `(k+1)*m` is not (R95). -/
theorem newmod_isOk {m : W256} (hm : 2 ^ 192 ≤ m.toNat) : ∃ x, newmod m = .ok x := by
  have hword : wordOf m 3 ≠ 0 := mt (wordOf_three_eq_zero_iff m).mp (Nat.not_lt.mpr hm)
  have htop := topWord_eq_multiplier hm (mu := BitVec.ofNat 320 (recip m.toNat)) (toNat_ofNat_of_lt (recip_lt hm))
  have hk := multiplier_mul_le m.toNat
  have hk1 := le_multiplier_mul_add (m := m.toNat) (by omega)
  rw [newmod, if_neg hword]
  obtain ⟨hwide, _⟩ | ⟨_, hsmall, _⟩ | ⟨_, _, hok⟩ :=
    newmodWith_cases (BitVec.ofNat 320 (recip m.toNat)) m (multiplier m.toNat * m.toNat) (by rw [htop])
  · omega
  · omega
  · exact ⟨_, hok⟩

/-- Settles O31: below `2^192` by the test of the top word, else by the two self-tests and what they leave. -/
theorem modulusConstructionNeverCorrupts : Obligations.ModulusConstructionNeverCorrupts := by
  unfold Obligations.ModulusConstructionNeverCorrupts
  refine fun m => ⟨newmod_of_lt, fun hm => ?_⟩
  obtain ⟨x, hx⟩ := newmod_isOk hm
  exact ⟨x, hx, newmod_valid hx⟩

/-! ### The quotient estimate of `reduce8` (R113, R114) -/

section Estimate

variable {A B X m mu : Nat}

/-- A Barrett estimate is at most the quotient: both of its divisions, and that of `mu`, round down. -/
theorem barrettEstimate_mul_le (hB : 0 < B) (hA : 0 < A) (hmu : mu * m ≤ A * B) : X / A * mu / B * m ≤ X := by
  have hq3 : X / A * mu / B * B ≤ X / A * mu := Nat.div_mul_le_self _ _
  have hq1 : X / A * A ≤ X := Nat.div_mul_le_self _ _
  refine Nat.le_of_mul_le_mul_right ?_ (Nat.mul_pos hA hB)
  calc X / A * mu / B * m * (A * B) = X / A * mu / B * B * (A * m) := by ring
    _ ≤ X / A * mu * (A * m) := Nat.mul_le_mul_right _ hq3
    _ = X / A * A * (mu * m) := by ring
    _ ≤ X * (A * B) := Nat.mul_le_mul hq1 hmu

/-- A Barrett estimate is at most two below the quotient: what the three divisions drop adds up to less than `3m`. -/
theorem lt_barrettEstimate_mul_add (hB : 0 < B) (hA : 0 < A) (hAm : A ≤ m) (hmu : A * B ≤ mu * m + m) (hX : X < A * B) :
    X < X / A * mu / B * m + 3 * m := by
  have hq3 : X / A * mu < (X / A * mu / B + 1) * B := Nat.lt_mul_of_div_lt (Nat.lt_succ_self _) hB
  have hq1 : X < (X / A + 1) * A := Nat.lt_mul_of_div_lt (Nat.lt_succ_self _) hA
  have hAmpos : 0 < A * m := Nat.mul_pos hA (hA.trans_le hAm)
  have hhigh : X / A * A < (X / A * mu / B + 2) * m := by
    refine Nat.lt_of_mul_lt_mul_right (a := A * B) ?_
    calc X / A * A * (A * B) ≤ X / A * A * (mu * m + m) := Nat.mul_le_mul_left _ hmu
      _ = X / A * mu * (A * m) + X / A * A * m := by ring
      _ < (X / A * mu / B + 1) * B * (A * m) + A * B * m :=
        Nat.add_lt_add_of_lt_of_le (Nat.mul_lt_mul_of_pos_right hq3 hAmpos)
          (Nat.mul_le_mul_right _ ((Nat.div_mul_le_self _ _).trans hX.le))
      _ = (X / A * mu / B + 2) * m * (A * B) := by ring
  calc X < (X / A + 1) * A := hq1
    _ = X / A * A + A := Nat.succ_mul _ _
    _ ≤ (X / A * mu / B + 2) * m + m := Nat.add_le_add hhigh.le hAm
    _ = X / A * mu / B * m + 3 * m := by ring

end Estimate

section Reduce

variable {slot : Modulus}

theorem toNat_lt_two_pow {w : Nat} (x : BitVec w) : x.toNat < 2 ^ w := x.isLt

/-- `q3` of `reduce8`, its estimate of the quotient of `X` (R113). -/
def quotientEstimate (slot : Modulus) (X : Nat) : Nat := X / 2 ^ 192 * slot.mu.toNat / 2 ^ 320

theorem two_pow_512 : 2 ^ 512 = 2 ^ 192 * 2 ^ 320 := by rw [show 512 = 192 + 320 from rfl, pow_add]

theorem quotientEstimate_mul_le (hslot : slot.Valid) (X : Nat) : quotientEstimate slot X * slot.m.toNat ≤ X := by
  obtain ⟨_, hmu, _, _⟩ := hslot
  have hmum : slot.mu.toNat * slot.m.toNat ≤ 2 ^ 192 * 2 ^ 320 := by
    rw [← two_pow_512, hmu]
    exact (recip_mul_le _).trans (Nat.sub_le _ _)
  exact barrettEstimate_mul_le (by positivity) (by positivity) hmum

theorem lt_quotientEstimate_mul_add (hslot : slot.Valid) {X : Nat} (hX : X < 2 ^ 512) :
    X < quotientEstimate slot X * slot.m.toNat + 3 * slot.m.toNat := by
  obtain ⟨hm, hmu, _, _⟩ := hslot
  have hmum : 2 ^ 192 * 2 ^ 320 ≤ slot.mu.toNat * slot.m.toNat + slot.m.toNat := by
    rw [← two_pow_512, hmu]
    exact le_recip_mul_add (Nat.lt_of_lt_of_le (by positivity) hm)
  exact lt_barrettEstimate_mul_add (by positivity) (by positivity) hm hmum (hX.trans_eq two_pow_512)

/-- The remainder that `reduce8` takes modulo `2^320` is exact, since it is below `3m` (R113, R114). -/
theorem sub_mod_two_pow_320 {X p m : Nat} (hm : m < 2 ^ 256) (hle : p ≤ X) (hlt : X < p + 3 * m) :
    (X % 2 ^ 320 + 2 ^ 320 - p % 2 ^ 320) % 2 ^ 320 = X - p := by
  omega

/-- `reduce8` in terms of its exact remainder `r`: it is narrow, or `m` is subtracted once, or twice (R113). -/
theorem reduce8_of_remainder {x : W512} {r : Nat}
    (hr : (x.toNat % 2 ^ 320 + 2 ^ 320 - quotientEstimate slot x.toNat * slot.m.toNat % 2 ^ 320) % 2 ^ 320 = r) :
    reduce8 slot x = if r < 2 ^ 256 then BitVec.ofNat 256 r
      else if slot.m.toNat ≤ r - slot.m.toNat then BitVec.ofNat 256 (r - slot.m.toNat - slot.m.toNat)
      else BitVec.ofNat 256 (r - slot.m.toNat) := by
  subst hr
  rfl

/-- `reduce8` subtracts from its operand the estimate's multiple of `m`, and `m` at most twice more (R113, R114). -/
theorem reduce8_eq_sub (hslot : slot.Valid) (x : W512) :
    ∃ j ≤ 2, quotientEstimate slot x.toNat * slot.m.toNat + j * slot.m.toNat ≤ x.toNat ∧
      (reduce8 slot x).toNat = x.toNat - (quotientEstimate slot x.toNat * slot.m.toNat + j * slot.m.toNat) := by
  have hle := quotientEstimate_mul_le hslot x.toNat
  have hlt := lt_quotientEstimate_mul_add hslot (toNat_lt_two_pow x)
  have hm := slot.m.isLt
  rw [reduce8_of_remainder (sub_mod_two_pow_320 hm hle hlt)]
  split
  next hnarrow => exact ⟨0, by omega, by omega, by rw [toNat_ofNat_of_lt hnarrow]; omega⟩
  next hwide =>
  split
  next htwice => exact ⟨2, by omega, by omega, by rw [toNat_ofNat_of_lt (by omega)]; omega⟩
  next honce => exact ⟨1, by omega, by omega, by rw [toNat_ofNat_of_lt (by omega)]; omega⟩

/-- R114: `reduce8` keeps the class. -/
theorem reduce8_modEq (hslot : slot.Valid) (x : W512) : (reduce8 slot x).toNat ≡ x.toNat [MOD slot.m.toNat] := by
  obtain ⟨j, _, hle, hvalue⟩ := reduce8_eq_sub hslot x
  rw [← Nat.add_mul] at hle hvalue
  rw [hvalue, Nat.modEq_iff_dvd' (Nat.sub_le _ _), Nat.sub_sub_self hle]
  exact Nat.dvd_mul_left _ _

theorem mulmod_modEq (hslot : slot.Valid) (a b : W256) :
    (mulmod slot a b).toNat ≡ a.toNat * b.toNat [MOD slot.m.toNat] := by
  have hfit : a.toNat * b.toNat < 2 ^ 512 := by
    rw [show 512 = 256 + 256 from rfl, pow_add]
    exact Nat.mul_lt_mul'' a.isLt b.isLt
  simpa only [mulmod, toNat_ofNat_of_lt hfit] using reduce8_modEq hslot (BitVec.ofNat 512 (a.toNat * b.toNat))

theorem sqrmod_modEq (hslot : slot.Valid) (a : W256) : (sqrmod slot a).toNat ≡ a.toNat ^ 2 [MOD slot.m.toNat] := by
  rw [Nat.pow_two]
  exact mulmod_modEq hslot a a

theorem squarings_zero (slot : Modulus) (a : W256) : squarings slot 0 a = a := rfl

/-- Proved with a variable for `sqrmod slot`: the kernel compares the operands of the two sides first, and would run `reduce8` on
an unknown word. -/
theorem squarings_succ (slot : Modulus) (n : Nat) (a : W256) :
    squarings slot (n + 1) a = squarings slot n (sqrmod slot a) := by
  delta squarings squarings._f
  generalize sqrmod slot = f
  rfl

/-- `n` squarings raise to the power `2^n`. -/
theorem squarings_modEq (hslot : slot.Valid) (n : Nat) (a : W256) :
    (squarings slot n a).toNat ≡ a.toNat ^ 2 ^ n [MOD slot.m.toNat] := by
  induction n generalizing a with
  | zero => rw [squarings_zero, Nat.pow_zero, Nat.pow_one]
  | succ n ih =>
    rw [squarings_succ]
    calc (squarings slot n (sqrmod slot a)).toNat
        ≡ (sqrmod slot a).toNat ^ 2 ^ n [MOD slot.m.toNat] := ih _
      _ ≡ (a.toNat ^ 2) ^ 2 ^ n [MOD slot.m.toNat] := (sqrmod_modEq hslot a).pow _
      _ = a.toNat ^ 2 ^ (n + 1) := by rw [← Nat.pow_mul, Nat.pow_succ']

end Reduce

/-! ### The tables of a base (R30, R161, R166) -/

section Tables

variable {slot : Modulus}

theorem windowWeight_zero : windowWeight 0 = 0 := rfl

theorem windowWeight_one : windowWeight 1 = 1 := rfl

/-- Bit `n` of a table index has weight `2^(64n)`, by the 15 indices that have a highest bit (R161). -/
theorem windowWeight_two_pow_add : ∀ n < 4, ∀ k < 2 ^ n, windowWeight (2 ^ n + k) = 2 ^ (64 * n) + windowWeight k := by
  decide

/-- Entry `j` of the table `t` is in the class of `x` to the weight of `j` (R30, R161). -/
def HoldsPowers (m x : Nat) (t : List W256) : Prop :=
  ∀ (j : Nat) (a : W256), t[j]? = some a → a.toNat ≡ x ^ windowWeight j [MOD m]

theorem holdsPowers_start {m x : Nat} {r : W256} (hr : r.toNat ≡ x [MOD m]) : HoldsPowers m x [1, r]
  | 0, _, ha => by
    cases ha
    rw [windowWeight_zero, pow_zero]
    exact Nat.ModEq.refl 1
  | 1, _, ha => by
    cases ha
    rwa [windowWeight_one, pow_one]

/-- The entries of a doubled table: the old ones, then the anchor, then the old ones but the first times the anchor (R162). -/
theorem extendTable_getElem?_eq_some {t : List W256} {r a : W256} {j : Nat} (ha : (extendTable slot t r)[j]? = some a) :
    t[j]? = some a ∨ (j = t.length ∧ a = r) ∨
      ∃ k b, j = t.length + k ∧ t[k]? = some b ∧ a = mulmod slot r b := by
  obtain hlow | ⟨k, rfl⟩ := (Nat.lt_or_ge j t.length).imp_right Nat.exists_eq_add_of_le
  · rw [extendTable, List.getElem?_append_left hlow] at ha
    exact .inl ha
  · rw [extendTable, List.getElem?_append_right (Nat.le_add_right _ _), Nat.add_sub_cancel_left] at ha
    cases k with
    | zero =>
      cases ha
      exact .inr (.inl ⟨rfl, rfl⟩)
    | succ k =>
      rw [List.getElem?_cons_succ, List.getElem?_map, List.getElem?_tail] at ha
      obtain ⟨b, hb, rfl⟩ := Option.map_eq_some_iff.mp ha
      exact .inr (.inr ⟨k + 1, b, rfl, hb, rfl⟩)

/-- A table doubled by its next anchor keeps what it holds (R162, R166). -/
theorem extendTable_holdsPowers {x n : Nat} {t : List W256} {r : W256} (hslot : slot.Valid) (hn : n < 4)
    (hlen : t.length = 2 ^ n) (hr : r.toNat ≡ x ^ 2 ^ (64 * n) [MOD slot.m.toNat]) (ht : HoldsPowers slot.m.toNat x t) :
    HoldsPowers slot.m.toNat x (extendTable slot t r) := by
  intro j a ha
  obtain hold | ⟨rfl, rfl⟩ | ⟨k, b, rfl, hb, rfl⟩ := extendTable_getElem?_eq_some ha
  · exact ht j a hold
  · have hweight := windowWeight_two_pow_add n hn 0 (by positivity)
    rw [Nat.add_zero, windowWeight_zero, Nat.add_zero] at hweight
    rwa [hlen, hweight]
  · have hk : k < t.length := (List.getElem?_eq_some_iff.mp hb).1
    rw [hlen, windowWeight_two_pow_add n hn k (hlen ▸ hk), pow_add]
    exact (mulmod_modEq hslot _ _).trans (hr.mul (ht k b hb))

/-- What the two tables hold after the anchors up to `2^n`, and where the running power stands (R166). -/
structure BuiltTo (slot : Modulus) (x : W256) (n : Nat) (t : BaseBuild) : Prop where
  l_length : t.l.length = 2 ^ (n + 1)
  h_length : t.h.length = 2 ^ (n + 1)
  l_powers : HoldsPowers slot.m.toNat x.toNat t.l
  h_powers : HoldsPowers slot.m.toNat (x.toNat ^ 2 ^ 32) t.h
  running : t.r.toNat ≡ x.toNat ^ 2 ^ (64 * n + 32) [MOD slot.m.toNat]

theorem baseStart_builtTo (hslot : slot.Valid) (x : W256) : BuiltTo slot x 0 (baseStart slot x) where
  l_length := rfl
  h_length := rfl
  l_powers := holdsPowers_start (Nat.ModEq.refl _)
  h_powers := holdsPowers_start (squarings_modEq hslot 32 x)
  running := squarings_modEq hslot 32 x

/-- `k` further squarings of a power of `x`. -/
theorem squarings_modEq_of_modEq (hslot : slot.Valid) {x k e : Nat} {r : W256} (hr : r.toNat ≡ x ^ 2 ^ e [MOD slot.m.toNat]) :
    (squarings slot k r).toNat ≡ x ^ 2 ^ (e + k) [MOD slot.m.toNat] := by
  calc (squarings slot k r).toNat ≡ r.toNat ^ 2 ^ k [MOD slot.m.toNat] := squarings_modEq hslot k r
    _ ≡ (x ^ 2 ^ e) ^ 2 ^ k [MOD slot.m.toNat] := hr.pow _
    _ = x ^ 2 ^ (e + k) := by rw [← pow_mul, ← pow_add]

theorem baseTurn_builtTo {x : W256} {n : Nat} {t : BaseBuild} (hslot : slot.Valid) (hn : n < 3) (ht : BuiltTo slot x n t) :
    BuiltTo slot x (n + 1) (baseTurn slot t) := by
  have hlow : (squarings slot 32 t.r).toNat ≡ x.toNat ^ 2 ^ (64 * (n + 1)) [MOD slot.m.toNat] :=
    squarings_modEq_of_modEq hslot ht.running
  have hrunning : (baseTurn slot t).r.toNat ≡ x.toNat ^ 2 ^ (64 * (n + 1) + 32) [MOD slot.m.toNat] :=
    squarings_modEq_of_modEq hslot hlow
  have hhigh : (baseTurn slot t).r.toNat ≡ (x.toNat ^ 2 ^ 32) ^ 2 ^ (64 * (n + 1)) [MOD slot.m.toNat] := by
    rwa [← pow_mul, ← pow_add, Nat.add_comm 32]
  have hnonempty {l : List W256} (hl : l.length = 2 ^ (n + 1)) : l ≠ [] :=
    List.ne_nil_of_length_pos (by rw [hl]; positivity)
  exact {
    l_length := by rw [baseTurn, extendTable_length _ _ _ (hnonempty ht.l_length), ht.l_length, ← pow_succ']
    h_length := by rw [baseTurn, extendTable_length _ _ _ (hnonempty ht.h_length), ht.h_length, ← pow_succ']
    l_powers := extendTable_holdsPowers hslot (by omega) ht.l_length hlow ht.l_powers
    h_powers := extendTable_holdsPowers hslot (by omega) ht.h_length hhigh ht.h_powers
    running := hrunning }

/-- After its three turns `expbase` has both tables whole (R166). -/
theorem expbase_builtTo (hslot : slot.Valid) (x : W256) : BuiltTo slot x 3 (expbase slot x) :=
  have hstart := baseStart_builtTo hslot x
  baseTurn_builtTo hslot (by omega) (baseTurn_builtTo hslot (by omega) (baseTurn_builtTo hslot (by omega) hstart))

/-- The entries that `expbase` stores as they stand: raw 1, and the raw base in `l[1]` (R166). -/
theorem newBase_raw_entries (slot : Modulus) (x : Residue) :
    (newBase slot x).l[0] = 1 ∧ (newBase slot x).h[0] = 1 ∧ (newBase slot x).l[1] = x.r := ⟨rfl, rfl, rfl⟩

theorem newBase_tablesFor (hslot : slot.Valid) (x : Residue) : (newBase slot x).TablesFor slot.m.toNat := by
  obtain ⟨hl0, hh0, hl1⟩ := newBase_raw_entries slot x
  have hbuilt := expbase_builtTo hslot x.r
  refine ⟨hl0, hh0, fun j => ?_⟩
  rw [hl1, Nat.mul_comm, pow_mul]
  exact ⟨hbuilt.l_powers j _ (List.getElem?_eq_getElem (by rw [expbase_l_length]; exact j.isLt)),
    hbuilt.h_powers j _ (List.getElem?_eq_getElem (by rw [expbase_h_length]; exact j.isLt))⟩

/-- Settles O56: the raw entries are those of the start, and the tables hold their powers after the three turns. -/
theorem newBaseHoldsTheTablesOfItsBase : Obligations.NewBaseHoldsTheTablesOfItsBase := by
  unfold Obligations.NewBaseHoldsTheTablesOfItsBase
  intro slot x hslot
  obtain ⟨_, _, hl1⟩ := newBase_raw_entries slot x
  exact ⟨rfl, hl1, newBase_tablesFor hslot x⟩

end Tables

/-! ### Every step keeps the tables (R30) -/

/-- A write to `M` reaches no slot that the tag of a valid base names (R23, R37), and a new base holds its tables (R166). -/
theorem CommandWrites.tablesOk (h : CommandWrites i s u) (hs : s.Inv) (hok : s.TablesOk) : u.TablesOk := by
  obtain ⟨_, hmoduli, ⟨_, hbaseTags⟩, _, _⟩ := hs
  induction h with
  | nothing | clearErr => exact hok
  | modulus hms hfree hx =>
    intro o ho b hb slot hslot
    obtain ⟨old, hold⟩ := hasModulus_iff.mp (hbaseTags o ho b hb)
    have hkept := (CommandWrites.modulus hms hfree hx).modulusIs hold
    rw [modulusIs_unique hslot hkept]
    exact hok o ho b hb old hold
  | @base es x slot _ hslot =>
    refine forall_mem_set (fun slot' hslot' => ?_) hok
    rw [modulusIs_unique hslot' hslot]
    exact newBase_tablesFor (hmoduli _ (List.mem_of_getElem? hslot) slot rfl) x
  | reg _ _ _ ih | flag _ _ ih => exact ih

/-- Settles O12: an idle cycle and a fault change neither bank, a reset leaves no valid base, and a command's writes keep the
tables. -/
theorem stepKeepsTheBaseTables : Obligations.StepKeepsTheBaseTables := by
  unfold Obligations.StepKeepsTheBaseTables
  intro s t hs hok h
  obtain rfl | ⟨rest, _, rfl⟩ | ⟨w, din, rest, ⟨c, rfl⟩ | ⟨i, u, d, hu, rfl⟩⟩ := step_ends h
  · exact hok
  · exact forall_mem_replicate_none
  · exact hok
  · exact hu.tablesOk (accept_inv hs w din rest) hok

end Sys2Proof.Proofs

/-! PROOF. The data ports (`spec/20_memory.md`): a legal word runs as the command it spells (R66, R71, R196), and how many
words of `DIN` and `DOUT` a command uses (R56). -/

namespace Sys2Proof.Proofs

open Sys2Proof Sys2Proof.Machine Sys2Proof.Claims

variable {i : Instr} {s t : State}

/-! ### The step on an issued word (R66, R196) -/

theorem step_of_issue {w : CmdWord} {d : W512} {rest : List HostMove} (h : s.pending = .issue w d :: rest) :
    step s = runAccepted (s.accept w d rest) := by
  rw [step, takeMove, h]

/-- Settles O5: the step is the transaction of the accepted word, which runs the command the word decodes to. -/
theorem stepRunsTheDecodedCommand : Obligations.StepRunsTheDecodedCommand := by
  unfold Obligations.StepRunsTheDecodedCommand
  intro s w d rest i hpending hdecode
  calc step s = runAccepted (s.accept w d rest) := step_of_issue hpending
    _ = exec i (s.accept w d rest) := runAccepted_of_decode (s := s.accept w d rest) hdecode
    _ = exec i (issued s w d rest) := rfl

/-! ### The words of `DOUT` (R56) -/

/-- A value of `n` words (R11). -/
theorem toNat_lt_words {w n : Nat} (x : BitVec w) (hw : w = 64 * n) : x.toNat < 2 ^ (64 * n) := by
  subst hw
  exact x.isLt

section Dout

variable {α : Type} {n : Nat}

/-- `DrivesWords n r`: if `r` completes, it drives no `DOUT` word from word `n` upward. -/
def DrivesWords (n : Nat) (r : Except ErrCode Effect) : Prop := ∀ e, r = .ok e → e.dout.toNat < 2 ^ (64 * n)

theorem drivesWords_pure {u : State} {dout : W320} (h : dout.toNat < 2 ^ (64 * n)) :
    DrivesWords n (pure { state := u, dout := dout }) := by
  intro e he
  cases he
  exact h

/-- A check or a read drives nothing. -/
theorem drivesWords_bind {x : Except ErrCode α} {k : α → Except ErrCode Effect} (h : ∀ a, DrivesWords n (k a)) :
    DrivesWords n (x >>= k) := by
  intro e he
  obtain ⟨a, _, ha⟩ := bind_eq_ok.mp he
  exact h a e ha

theorem drivesWords_ite {p : Prop} [Decidable p] {a b : Except ErrCode Effect} (ha : DrivesWords n a) (hb : DrivesWords n b) :
    DrivesWords n (if p then a else b) := by
  split <;> assumption

theorem doutNone_lt (n : Nat) : doutNone.toNat < 2 ^ (64 * n) :=
  BitVec.toNat_zero.trans_lt (Nat.two_pow_pos (64 * n))

theorem drivesWords_none {u : State} : DrivesWords n (pure { state := u, dout := doutNone }) :=
  drivesWords_pure (doutNone_lt n)

/-- A fault drives no data (R210), so the response is bounded by what the command drives when it completes. -/
theorem finish_dout_lt {r : Except ErrCode Effect} (hr : DrivesWords n r) (h : s.finish r = .next t) :
    t.rsp.dout.toNat < 2 ^ (64 * n) := by
  obtain ⟨e, he, rfl⟩ | ⟨c, _, rfl⟩ := finish_eq_next.mp h
  · exact hr e he
  · exact doutNone_lt n

theorem dout256_lt (v : W256) : (dout256 v).toNat < 2 ^ (64 * 4) := by
  rw [dout256, toNat_ofNat_of_lt (v.isLt.trans (Nat.pow_lt_pow_right (by omega) (by omega)))]
  exact toNat_lt_words v rfl

theorem readOut_dout_lt {ms : SlotIx} {field : Modulus → W320} (hfield : ∀ x, (field x).toNat < 2 ^ (64 * n))
    (h : readOut ms field s = .next t) : t.rsp.dout.toNat < 2 ^ (64 * n) :=
  finish_dout_lt (drivesWords_bind fun _ => drivesWords_bind fun x => drivesWords_pure (hfield x)) h

theorem compareRegs_drivesNone {rd rs : RegIx} {answer : Bool → Bool} (h : compareRegs rd rs answer s = .next t) :
    t.rsp.dout.toNat < 2 ^ (64 * 0) :=
  finish_dout_lt (drivesWords_bind fun _ => drivesWords_bind fun _ => drivesWords_bind fun _ => drivesWords_bind fun _ =>
    drivesWords_bind fun _ => drivesWords_bind fun _ => drivesWords_ite drivesWords_none drivesWords_none) h

theorem execMul_drivesNone {rd rs : RegIx} (h : execMul rd rs s = .next t) : t.rsp.dout.toNat < 2 ^ (64 * 0) :=
  finish_dout_lt (drivesWords_bind fun _ => drivesWords_bind fun _ => drivesWords_bind fun _ => drivesWords_bind fun _ =>
    drivesWords_bind fun _ => drivesWords_ite drivesWords_none
      (drivesWords_bind fun _ => drivesWords_bind fun _ => drivesWords_none)) h

/-- Settles O25: the read-outs drive a field of four or five words, RGET a 256-bit value, and every other command nothing. -/
theorem doutHasNoMoreWordsThanItsRow : Obligations.DoutHasNoMoreWordsThanItsRow := by
  unfold Obligations.DoutHasNoMoreWordsThanItsRow
  intro i s t h
  cases i
  case modget ms => exact readOut_dout_lt (fun x => dout256_lt x.m) h
  case muget ms => exact readOut_dout_lt (fun x => toNat_lt_words x.mu rfl) h
  case mmu0get ms => exact readOut_dout_lt (fun x => dout256_lt x.mmu0) h
  case mmu1get ms => exact readOut_dout_lt (fun x => dout256_lt x.mmu1) h
  case rget rd =>
    exact finish_dout_lt (drivesWords_bind fun _ => drivesWords_bind fun _ => drivesWords_bind fun _ =>
      drivesWords_pure (dout256_lt _)) h
  case eq rd rs => exact compareRegs_drivesNone h
  case neq rd rs => exact compareRegs_drivesNone h
  case mul rd rs => exact execMul_drivesNone h
  case nop => exact finish_dout_lt (s := s) drivesWords_none h
  case clrerr => exact finish_dout_lt (s := s) drivesWords_none h
  case modset | rset | rcopy | red4 | red8 | add | sub | neg | dbl | sqr | inv | exp | expb | expp =>
    refine finish_dout_lt ?_ h
    repeat refine drivesWords_bind fun _ => ?_
    exact drivesWords_none

end Dout

/-! ### The words of `DIN` (R56) -/

section Din

variable {α : Type} {d : W512}

/-- The state with other data sampled on `DIN`. -/
def withDin (s : State) (d : W512) : State := { s with cmdDin := d }

/-- `DIN4` is the low four words of `DIN`. -/
theorem din4_withDin (hi : dinWords i = 4)
    (h : s.cmdDin.toNat % 2 ^ (64 * dinWords i) = d.toNat % 2 ^ (64 * dinWords i)) : (withDin s d).din4 = s.din4 := by
  rw [hi] at h
  exact BitVec.eq_of_toNat_eq (by simpa [State.din4, withDin] using h.symm)

/-- `DIN8` is all of `DIN`. -/
theorem din8_withDin (hi : dinWords i = 8)
    (h : s.cmdDin.toNat % 2 ^ (64 * dinWords i) = d.toNat % 2 ^ (64 * dinWords i)) : (withDin s d).din8 = s.din8 := by
  have hlt (x : W512) : x.toNat < 2 ^ (64 * 8) := toNat_lt_words x rfl
  rw [hi, Nat.mod_eq_of_lt (hlt s.cmdDin), Nat.mod_eq_of_lt (hlt d)] at h
  exact BitVec.eq_of_toNat_eq h.symm

/-- `SameUpToDin d o o'`: where `o` answers a state, `o'` answers that state with `d` as the sampled data input. -/
def SameUpToDin (d : W512) (o o' : Host.Outcome State Fault Refusal) : Prop := ∀ t, o = .next t → o' = .next (withDin t d)

/-- A command that completes with the same data in states that differ in the sampled `DIN` alone. -/
theorem finish_withDin_ok {u u' : State} {dout : W320} (hu : u' = withDin u d) :
    SameUpToDin d (s.finish (pure { state := u, dout := dout }))
      ((withDin s d).finish (pure { state := u', dout := dout })) := by
  intro t h
  cases h
  rw [hu]
  rfl

/-- One check or read of a command whose result is the same for both data inputs: if it faults, both runs take its fault. -/
theorem finish_withDin_bind {x : Except ErrCode α} {k k' : α → Except ErrCode Effect}
    (h : ∀ a, SameUpToDin d (s.finish (k a)) ((withDin s d).finish (k' a))) :
    SameUpToDin d (s.finish (x >>= k)) ((withDin s d).finish (x >>= k')) := by
  cases x with
  | ok a => exact h a
  | error c =>
    intro t ht
    cases ht
    rfl

theorem finish_withDin_ite {p : Prop} [Decidable p] {a b a' b' : Except ErrCode Effect}
    (ha : SameUpToDin d (s.finish a) ((withDin s d).finish a')) (hb : SameUpToDin d (s.finish b) ((withDin s d).finish b')) :
    SameUpToDin d (s.finish (if p then a else b)) ((withDin s d).finish (if p then a' else b')) := by
  split <;> assumption

theorem compareRegs_withDin (rd rs : RegIx) (answer : Bool → Bool) (s : State) (d : W512) :
    SameUpToDin d (compareRegs rd rs answer s) (compareRegs rd rs answer (withDin s d)) :=
  finish_withDin_bind fun _ => finish_withDin_bind fun _ => finish_withDin_bind fun _ => finish_withDin_bind fun _ =>
    finish_withDin_bind fun _ => finish_withDin_bind fun _ =>
      finish_withDin_ite (finish_withDin_ok rfl) (finish_withDin_ok rfl)

theorem execMul_withDin (rd rs : RegIx) (s : State) (d : W512) :
    SameUpToDin d (execMul rd rs s) (execMul rd rs (withDin s d)) :=
  finish_withDin_bind fun _ => finish_withDin_bind fun _ => finish_withDin_bind fun _ => finish_withDin_bind fun _ =>
    finish_withDin_bind fun _ => finish_withDin_ite (finish_withDin_ok rfl)
      (finish_withDin_bind fun _ => finish_withDin_bind fun _ => finish_withDin_ok rfl)

/-- The commands that read `DIN` read only the operand `DIN4` or `DIN8` of their row (R69); the others read none of it. -/
theorem exec_withDin (h : s.cmdDin.toNat % 2 ^ (64 * dinWords i) = d.toNat % 2 ^ (64 * dinWords i)) :
    SameUpToDin d (exec i s) (exec i (withDin s d)) := by
  cases i
  case modset ms =>
    simp only [exec, execModset, din4_withDin rfl h]
    exact finish_withDin_bind fun _ => finish_withDin_bind fun _ => finish_withDin_bind fun _ => finish_withDin_ok rfl
  case rset rd ms =>
    exact finish_withDin_bind fun _ => finish_withDin_bind fun _ => finish_withDin_bind fun _ =>
      finish_withDin_ok (by rw [din4_withDin rfl h]; rfl)
  case red8 rd ms =>
    exact finish_withDin_bind fun _ => finish_withDin_bind fun _ => finish_withDin_bind fun _ =>
      finish_withDin_ok (by rw [din8_withDin rfl h]; rfl)
  case exp rd =>
    exact finish_withDin_bind fun _ => finish_withDin_bind fun _ => finish_withDin_bind fun _ =>
      finish_withDin_ok (by rw [din4_withDin rfl h]; rfl)
  case expp rd es =>
    exact finish_withDin_bind fun _ => finish_withDin_bind fun _ => finish_withDin_bind fun _ => finish_withDin_bind fun _ =>
      finish_withDin_ok (by rw [din4_withDin rfl h]; rfl)
  case eq rd rs => exact compareRegs_withDin rd rs id s d
  case neq rd rs => exact compareRegs_withDin rd rs neqFlag s d
  case mul rd rs => exact execMul_withDin rd rs s d
  case nop => exact finish_withDin_ok (s := s) rfl
  case clrerr => exact finish_withDin_ok (s := s) rfl
  case modget | muget | mmu0get | mmu1get | rget | rcopy | red4 | add | sub | neg | dbl | sqr | inv | expb =>
    repeat refine finish_withDin_bind fun _ => ?_
    exact finish_withDin_ok rfl

/-- Settles O26: both runs take the same checks and compute from the same operand of `DIN`. -/
theorem unreadDinWordsAreIgnored : Obligations.UnreadDinWordsAreIgnored := by
  unfold Obligations.UnreadDinWordsAreIgnored
  intro i s t d hagree h
  exact exec_withDin hagree t h

end Din

end Sys2Proof.Proofs

/-! PROOF. The encoding (`spec/30_encoding.md`): a word and its six fields determine each other (R67), each row of the opcode map
reads the words its mask lets through (R68, R70), so decoding inverts encoding (R71, R72); and the two steps that run no command,
that on an illegal word (R72) and the idle one. -/

namespace Sys2Proof.Proofs

open Sys2Proof Sys2Proof.Machine Sys2Proof.Claims

/-! ### A word and its fields (R67) -/

theorem joinFields_toNat (f : CmdFields) :
    (joinFields f).toNat = f.op.toNat * 2 ^ 24 + f.rd.toNat * 2 ^ 19 + f.rs.toNat * 2 ^ 14 + f.ms.toNat * 2 ^ 10
      + f.es.toNat * 2 ^ 6 + f.zero.toNat := by
  rw [joinFields, BitVec.toNat_ofNat]
  omega

theorem cmdFields_joinFields (f : CmdFields) : cmdFields (joinFields f) = f := by
  obtain ⟨op, rd, rs, ms, es, zero⟩ := f
  simp only [cmdFields, joinFields_toNat, bitField, CmdFields.mk.injEq]
  refine ⟨?_, ?_, ?_, ?_, ?_, ?_⟩ <;> bv_omega

theorem joinFields_cmdFields (w : CmdWord) : joinFields (cmdFields w) = w := by
  apply BitVec.eq_of_toNat_eq
  simp only [joinFields_toNat, cmdFields, bitField, BitVec.toNat_ofNat]
  omega

theorem cmdFields_injective : Function.Injective cmdFields :=
  Function.LeftInverse.injective joinFields_cmdFields

/-- The conjunction of two words, field by field. -/
def andFields (f g : CmdFields) : CmdFields :=
  { op := f.op &&& g.op, rd := f.rd &&& g.rd, rs := f.rs &&& g.rs, ms := f.ms &&& g.ms, es := f.es &&& g.es
    zero := f.zero &&& g.zero }

theorem bitField_and (v u hi lo : Nat) : bitField (v &&& u) hi lo = bitField v hi lo &&& bitField u hi lo := by
  rw [bitField, Nat.and_div_two_pow, Nat.and_mod_two_pow, bitField, bitField]

theorem cmdFields_and (w m : CmdWord) : cmdFields (w &&& m) = andFields (cmdFields w) (cmdFields m) := by
  simp only [cmdFields, andFields, BitVec.toNat_and, bitField_and, BitVec.ofNat_and]

theorem fields_eq_iff {f g : CmdFields} :
    f = g ↔ f.op = g.op ∧ f.rd = g.rd ∧ f.rs = g.rs ∧ f.ms = g.ms ∧ f.es = g.es ∧ f.zero = g.zero := by
  cases f
  cases g
  simp only [CmdFields.mk.injEq]

/-! ### The formats (R68) -/

/-- The seven formats of R68. -/
inductive WordFormat where
  | N | M | D | DS | DM | ES | DE

/-- The "mask" column of R68. -/
def WordFormat.mask : WordFormat → CmdWord
  | N => 0xFFFFFFFF
  | M => 0xFFFFC3FF
  | D => 0xFF07FFFF
  | DS => 0xFF003FFF
  | DM => 0xFF07C3FF
  | ES => 0xFFF83C3F
  | DE => 0xFF07FC3F

/-- The fields of the mask: all ones where the format uses no field. -/
def WordFormat.maskFields : WordFormat → CmdFields
  | N => ⟨.allOnes 8, .allOnes 5, .allOnes 5, .allOnes 4, .allOnes 4, .allOnes 6⟩
  | M => ⟨.allOnes 8, .allOnes 5, .allOnes 5, 0, .allOnes 4, .allOnes 6⟩
  | D => ⟨.allOnes 8, 0, .allOnes 5, .allOnes 4, .allOnes 4, .allOnes 6⟩
  | DS => ⟨.allOnes 8, 0, 0, .allOnes 4, .allOnes 4, .allOnes 6⟩
  | DM => ⟨.allOnes 8, 0, .allOnes 5, 0, .allOnes 4, .allOnes 6⟩
  | ES => ⟨.allOnes 8, .allOnes 5, 0, .allOnes 4, 0, .allOnes 6⟩
  | DE => ⟨.allOnes 8, 0, .allOnes 5, .allOnes 4, 0, .allOnes 6⟩

/-- The opcode and the fields the format uses, 0 in every other field. -/
def WordFormat.used (f : CmdFields) : WordFormat → CmdFields
  | N => opOnly f.op
  | M => { opOnly f.op with ms := f.ms }
  | D => { opOnly f.op with rd := f.rd }
  | DS => { opOnly f.op with rd := f.rd, rs := f.rs }
  | DM => { opOnly f.op with rd := f.rd, ms := f.ms }
  | ES => { opOnly f.op with es := f.es, rs := f.rs }
  | DE => { opOnly f.op with rd := f.rd, es := f.es }

/-- The decoder's check that the fields the format does not use are 0. -/
def WordFormat.unusedAreZero (f : CmdFields) : WordFormat → Bool
  | N => f.rd == 0 && f.rs == 0 && f.ms == 0 && f.es == 0 && f.zero == 0
  | M => f.rd == 0 && f.rs == 0 && f.es == 0 && f.zero == 0
  | D => f.rs == 0 && f.ms == 0 && f.es == 0 && f.zero == 0
  | DS => f.ms == 0 && f.es == 0 && f.zero == 0
  | DM => f.rs == 0 && f.es == 0 && f.zero == 0
  | ES => f.rd == 0 && f.ms == 0 && f.zero == 0
  | DE => f.rs == 0 && f.ms == 0 && f.zero == 0

theorem WordFormat.cmdFields_mask (fmt : WordFormat) : cmdFields fmt.mask = fmt.maskFields := by
  cases fmt <;> rfl

theorem WordFormat.mask_matches_iff (fmt : WordFormat) (f : CmdFields) :
    andFields f fmt.maskFields = opOnly f.op ↔ f = fmt.used f := by
  cases fmt <;> simp [fields_eq_iff, andFields, opOnly, maskFields, used, -BitVec.reduceAllOnes]

theorem WordFormat.unusedAreZero_iff (fmt : WordFormat) (f : CmdFields) : fmt.unusedAreZero f = true ↔ f = fmt.used f := by
  cases fmt <;> simp [fields_eq_iff, opOnly, unusedAreZero, used, and_assoc]

/-! ### The rows of the opcode map (R70) -/

/-- On fields with opcode `op`, decoding accepts those that match under `mask`, and only as the command they are the fields of. -/
def ReadsRow (op : BitVec 8) (mask : CmdWord) : Prop :=
  ∀ f, f.op = op →
    ((∃ i, decodeFields f = .ok i) ↔ andFields f (cmdFields mask) = opOnly op) ∧
      ∀ i, decodeFields f = .ok i → fieldsOf i = f

theorem acceptIf_eq_ok {f : CmdFields} {b : Bool} {i j : Instr} : acceptIf f b i = .ok j ↔ b = true ∧ i = j := by
  cases b <;> simp [acceptIf]

/-- A row that decodes as its format says, to a command whose encoding uses the fields of that format. -/
theorem WordFormat.readsRow {op : BitVec 8} (fmt : WordFormat) (cmd : CmdFields → Instr)
    (hfields : ∀ f : CmdFields, fieldsOf (cmd f) = fmt.used { f with op := op } := by exact fun _ => rfl)
    (hdecode : ∀ f : CmdFields, decodeFields { f with op := op } =
      acceptIf { f with op := op } (fmt.unusedAreZero { f with op := op }) (cmd f) := by exact fun _ => rfl) :
    ReadsRow op fmt.mask := by
  rintro f rfl
  have haccept (i : Instr) : decodeFields f = .ok i ↔ f = fmt.used f ∧ cmd f = i := by
    rw [hdecode f, acceptIf_eq_ok, unusedAreZero_iff]
  constructor
  · rw [cmdFields_mask, mask_matches_iff]
    simp only [haccept, exists_and_left, exists_eq', and_true]
  · intro i hi
    obtain ⟨hused, rfl⟩ := (haccept i).mp hi
    exact (hfields f).trans hused.symm

/-- The opcode map of R70: each row with its format and the command it spells. -/
theorem opcodeMap_readsRow : ∀ row ∈ opcodeMap, ReadsRow row.1 row.2 := by
  simp only [opcodeMap, List.forall_mem_cons]
  exact ⟨WordFormat.N.readsRow fun _ => .nop,
    WordFormat.N.readsRow fun _ => .clrerr,
    WordFormat.M.readsRow fun f => .modset f.ms,
    WordFormat.M.readsRow fun f => .modget f.ms,
    WordFormat.M.readsRow fun f => .muget f.ms,
    WordFormat.M.readsRow fun f => .mmu0get f.ms,
    WordFormat.M.readsRow fun f => .mmu1get f.ms,
    WordFormat.DM.readsRow fun f => .rset f.rd f.ms,
    WordFormat.D.readsRow fun f => .rget f.rd,
    WordFormat.DS.readsRow fun f => .rcopy f.rd f.rs,
    WordFormat.D.readsRow fun f => .red4 f.rd,
    WordFormat.DM.readsRow fun f => .red8 f.rd f.ms,
    WordFormat.DS.readsRow fun f => .add f.rd f.rs,
    WordFormat.DS.readsRow fun f => .sub f.rd f.rs,
    WordFormat.D.readsRow fun f => .neg f.rd,
    WordFormat.D.readsRow fun f => .dbl f.rd,
    WordFormat.DS.readsRow fun f => .mul f.rd f.rs,
    WordFormat.D.readsRow fun f => .sqr f.rd,
    WordFormat.DS.readsRow fun f => .eq f.rd f.rs,
    WordFormat.DS.readsRow fun f => .neq f.rd f.rs,
    WordFormat.D.readsRow fun f => .inv f.rd,
    WordFormat.D.readsRow fun f => .exp f.rd,
    WordFormat.ES.readsRow fun f => .expb f.es f.rs,
    WordFormat.DE.readsRow fun f => .expp f.rd f.es,
    List.forall_mem_nil _⟩

/-- Decoding accepts no opcode outside the map. -/
theorem exists_row_of_decodeFields {f : CmdFields} {i : Instr} (h : decodeFields f = .ok i) :
    ∃ row ∈ opcodeMap, f.op = row.1 := by
  have hmem : f.op.toNat ∈ opcodeMap.map (·.1.toNat) := by
    unfold decodeFields at h
    split at h
    case h_25 => cases h
    all_goals
      rename_i hop
      rw [hop]
      decide
  obtain ⟨row, hrow, hop⟩ := List.mem_map.mp hmem
  exact ⟨row, hrow, BitVec.eq_of_toNat_eq hop.symm⟩

/-! ### Decoding inverts encoding (R71, R72) -/

theorem fieldsOf_op (i : Instr) : (fieldsOf i).op = opcode i := by
  cases i <;> rfl

/-- The fields of a command have 0 where the check of its format asks for it. -/
theorem decodeFields_fieldsOf (i : Instr) : decodeFields (fieldsOf i) = .ok i := by
  cases i <;> rfl

theorem decodeFields_eq_ok_iff {f : CmdFields} {i : Instr} : decodeFields f = .ok i ↔ fieldsOf i = f := by
  constructor
  · intro h
    obtain ⟨row, hrow, hop⟩ := exists_row_of_decodeFields h
    obtain ⟨_, hfields⟩ := opcodeMap_readsRow row hrow f hop
    exact hfields i h
  · rintro rfl
    exact decodeFields_fieldsOf i

/-- A word is legal exactly when it is the encoding of a command, which is then the one it decodes to. -/
theorem decode_eq_ok_iff {w : CmdWord} {i : Instr} : decode w = .ok i ↔ encode i = w :=
  calc decode w = .ok i
    _ ↔ fieldsOf i = cmdFields w := decodeFields_eq_ok_iff
    _ ↔ cmdFields (encode i) = cmdFields w := by rw [encode, cmdFields_joinFields]
    _ ↔ encode i = w := cmdFields_injective.eq_iff

/-- Settles O1: the word of a command has the fields of the command, and the decoder's check passes on them. -/
theorem decodeOfEncodeIsTheCommand : Obligations.DecodeOfEncodeIsTheCommand := by
  unfold Obligations.DecodeOfEncodeIsTheCommand
  intro i
  exact decode_eq_ok_iff.mpr rfl

/-- Settles O2: the fields the row's format does not use are 0 in a legal word, as they are in the encoding. -/
theorem legalWordIsTheEncodingOfItsCommand : Obligations.LegalWordIsTheEncodingOfItsCommand := by
  unfold Obligations.LegalWordIsTheEncodingOfItsCommand
  intro w i h
  exact decode_eq_ok_iff.mp h

/-! ### Masks (R68) -/

theorem opcode_of_decode {w : CmdWord} {i : Instr} (h : decode w = .ok i) : opcode i = (cmdFields w).op := by
  rw [← fieldsOf_op, decodeFields_eq_ok_iff.mp h]

/-- `match = op*2^24`. -/
theorem cmdFields_match (op : BitVec 8) : cmdFields (BitVec.ofNat 32 (op.toNat * 2 ^ 24)) = opOnly op := by
  have hjoin : joinFields (opOnly op) = BitVec.ofNat 32 (op.toNat * 2 ^ 24) := by simp [joinFields, opOnly]
  rw [← hjoin, cmdFields_joinFields]

/-- "Every mask contains bits 31:24" (R68). -/
theorem mask_keeps_op : ∀ row ∈ opcodeMap, (cmdFields row.2).op = .allOnes 8 := by
  simp [opcodeMap, cmdFields, bitField]

theorem op_of_mask_matches {row : BitVec 8 × CmdWord} (hrow : row ∈ opcodeMap) {f : CmdFields}
    (h : andFields f (cmdFields row.2) = opOnly row.1) : f.op = row.1 :=
  calc f.op = f.op &&& (cmdFields row.2).op := by rw [mask_keeps_op row hrow, BitVec.and_allOnes]
    _ = row.1 := congrArg CmdFields.op h

/-- Settles O3: either side gives the word the row's opcode, and on that opcode the decoder reads the row. -/
theorem wordSpellsACommandExactlyWhenMaskMatches : Obligations.WordSpellsACommandExactlyWhenMaskMatches := by
  unfold Obligations.WordSpellsACommandExactlyWhenMaskMatches
  intro w row hrow
  rw [← cmdFields_injective.eq_iff, cmdFields_and, cmdFields_match]
  have haccepts (hop : (cmdFields w).op = row.1) :
      (∃ i, decode w = .ok i) ↔ andFields (cmdFields w) (cmdFields row.2) = opOnly row.1 :=
    (opcodeMap_readsRow row hrow (cmdFields w) hop).1
  constructor
  · intro hmatch
    have hop := op_of_mask_matches hrow hmatch
    obtain ⟨i, hi⟩ := (haccepts hop).mpr hmatch
    exact ⟨i, hi, (opcode_of_decode hi).trans hop⟩
  · rintro ⟨i, hi, hopcode⟩
    exact (haccepts ((opcode_of_decode hi).symm.trans hopcode)).mp ⟨i, hi⟩

/-- Settles O4: the 18 legal words are the encodings of their commands, and the decoder is run on the three illegal ones. -/
theorem workedEncodingsDecode : Obligations.WorkedEncodingsDecode := by
  unfold Obligations.WorkedEncodingsDecode
  simp only [decode_eq_ok_iff]
  decide

/-! ### The steps that run no command (R66, R72) -/

/-- Settles O6: the transaction of an illegal word is the fault `E_ILLEGAL`. -/
theorem illegalWordIsAnsweredWithIllegal : Obligations.IllegalWordIsAnsweredWithIllegal := by
  unfold Obligations.IllegalWordIsAnsweredWithIllegal
  intro s w d rest e hpending hdecode
  calc step s = runAccepted (s.accept w d rest) := step_of_issue hpending
    _ = .next ((s.accept w d rest).raise .illegal) := runAccepted_of_illegal (s := s.accept w d rest) hdecode
    _ = .next (faulted (issued s w d rest) 5) := congrArg _ (raise_eq_faulted _ .illegal)

/-- Settles O8: with no move to come the step is one idle cycle. -/
theorem idleHoldsTheState : Obligations.IdleHoldsTheState := by
  unfold Obligations.IdleHoldsTheState
  intro s hpending
  have hstep : step s = .next s.idle := by rw [step, takeMove, hpending]
  exact hstep

end Sys2Proof.Proofs

/-! PROOF. The reciprocal generator and modulus construction (`spec/40_reciprocal_modulus.md`): the two cases of the reciprocal
(R90), the power-of-two edge (R91), MODSET and the read-outs (R96 to R100); and when a command completes (R200 to R209). -/

namespace Sys2Proof.Proofs

open Sys2Proof Sys2Proof.Machine Sys2Proof.Claims

variable {s t : State}

/-! ### The reciprocal (R90) -/

section Reciprocal

variable {m : Nat}

theorem div_eq_sub_one_div_add {n : Nat} (hn : 0 < n) (m : Nat) : n / m = (n - 1) / m + if m ∣ n then 1 else 0 := by
  obtain ⟨k, rfl⟩ := Nat.exists_eq_add_of_lt hn
  rw [Nat.zero_add, Nat.add_sub_cancel]
  exact Nat.succ_div

/-- The quotient of `2^512` differs from the reciprocal exactly when `m` divides `2^512`. -/
theorem two_pow_512_div (m : Nat) : 2 ^ 512 / m = recip m + if m ∣ 2 ^ 512 then 1 else 0 :=
  div_eq_sub_one_div_add (by positivity) m

/-- The divisors of `2^512` in range are the powers of two. -/
theorem dvd_two_pow_512_iff (hlt : m < 2 ^ 256) : m ∣ 2 ^ 512 ↔ ∃ k, m = 2 ^ k := by
  rw [Nat.dvd_prime_pow Nat.prime_two]
  constructor
  · rintro ⟨k, _, hk⟩
    exact ⟨k, hk⟩
  · rintro ⟨k, rfl⟩
    have hk : k < 256 := (Nat.pow_lt_pow_iff_right (by omega)).mp hlt
    exact ⟨k, by omega, rfl⟩

theorem recip_mul_add_of_dvd (h : m ∣ 2 ^ 512) : recip m * m + m = 2 ^ 512 := by
  have hdiv := two_pow_512_div m
  rw [if_pos h] at hdiv
  calc recip m * m + m = 2 ^ 512 / m * m := by rw [hdiv, Nat.succ_mul]
    _ = 2 ^ 512 := Nat.div_mul_cancel h

theorem recip_mul_add_ne_of_not_dvd (h : ¬ m ∣ 2 ^ 512) : recip m * m + m ≠ 2 ^ 512 := by
  intro heq
  exact h ⟨recip m + 1, by rw [← heq, Nat.mul_comm m, Nat.succ_mul]⟩

/-- The reciprocal is smallest at the greatest modulus, since `(2^256 + 1) * (2^256 - 1) = 2^512 - 1`. -/
theorem le_recip (hpos : 0 < m) (hlt : m < 2 ^ 256) : 2 ^ 256 + 1 ≤ recip m := by
  rw [recip, Nat.le_div_iff_mul_le hpos]
  omega

theorem two_pow_sub_one_div_two_pow {n k : Nat} (hk : k ≤ n) : (2 ^ n - 1) / 2 ^ k = 2 ^ (n - k) - 1 := by
  have hdiv := div_eq_sub_one_div_add (Nat.two_pow_pos n) (2 ^ k)
  rw [if_pos (Nat.pow_dvd_pow 2 hk), Nat.pow_div hk Nat.two_pos] at hdiv
  rw [hdiv, Nat.add_sub_cancel]

theorem recip_two_pow {k : Nat} (hk : k ≤ 512) : recip (2 ^ k) = 2 ^ (512 - k) - 1 := two_pow_sub_one_div_two_pow hk

end Reciprocal

/-- Settles O29: by whether `m` divides `2^512`, and the division bounds. -/
theorem reciprocalMeetsItsContract : Obligations.ReciprocalMeetsItsContract := by
  unfold Obligations.ReciprocalMeetsItsContract
  intro m hm hlt
  have hpos : 0 < m := by omega
  have hupper := recip_mul_le m
  have hdiv := two_pow_512_div m
  rw [← dvd_two_pow_512_iff hlt]
  refine ⟨rfl, fun hdvd => ?_, fun hdvd => ?_, by omega, le_recip_mul_add hpos, recip_lt hm, le_recip hpos hlt, ?_, ?_⟩
  · rw [if_pos hdvd] at hdiv
    exact ⟨by omega, recip_mul_add_of_dvd hdvd⟩
  · rw [if_neg hdvd] at hdiv
    exact ⟨hdiv.symm, recip_mul_add_ne_of_not_dvd hdvd⟩
  · rw [recip]
    omega
  · rw [recip]
    omega

/-! ### The power-of-two edge (R91) -/

/-- A word is a power of two when clearing its lowest set bit leaves 0. -/
theorem and_sub_one_eq_zero_iff {w : W64} (hw : w ≠ 0) : w &&& (w - 1) = 0 ↔ ∃ k, w.toNat = 2 ^ k := by
  have hpos : w.toNat ≠ 0 := fun h => hw (BitVec.eq_of_toNat_eq h)
  have hpred : (w - 1).toNat = w.toNat - 1 := by bv_omega
  rw [← BitVec.toNat_inj, BitVec.toNat_and, hpred]
  exact Nat.and_sub_one_eq_zero_iff_isPowerOfTwo hpos

theorem low_words_eq_zero_iff (m : W256) :
    (wordOf m 0 = 0 ∧ wordOf m 1 = 0 ∧ wordOf m 2 = 0) ↔ m.toNat = (wordOf m 3).toNat * 2 ^ 192 := by
  have hwords := wordsVal_wordList4 m
  simp only [wordList4, wordsVal] at hwords
  rw [← hwords]
  bv_omega

/-- The detection expression is zero exactly when the low three words are zero and `m[3]` has one bit set (R91). -/
theorem isPowerOfTwo_iff_words {m : W256} (hm : 2 ^ 192 ≤ m.toNat) :
    isPowerOfTwo m = true ↔ m.toNat = (wordOf m 3).toNat * 2 ^ 192 ∧ ∃ k, (wordOf m 3).toNat = 2 ^ k := by
  have hword : wordOf m 3 ≠ 0 := mt (wordOf_three_eq_zero_iff m).mp (Nat.not_lt.mpr hm)
  rw [isPowerOfTwo, decide_eq_true_iff, ← low_words_eq_zero_iff, ← and_sub_one_eq_zero_iff hword]
  simp only [BitVec.ofNat_eq_ofNat, BitVec.or_eq_zero_iff, and_assoc]

/-- A modulus in range is a power of two exactly when it is its top word shifted up and that word is one. -/
theorem exists_eq_two_pow_iff_words {m : W256} (hm : 2 ^ 192 ≤ m.toNat) :
    (∃ k, m.toNat = 2 ^ k) ↔ m.toNat = (wordOf m 3).toNat * 2 ^ 192 ∧ ∃ k, (wordOf m 3).toNat = 2 ^ k := by
  have hlt := m.isLt
  constructor
  · rintro ⟨k, hk⟩
    have hk192 : 192 ≤ k := (Nat.pow_le_pow_iff_right (by omega)).mp (hk ▸ hm)
    have hsplit : m.toNat = 2 ^ (k - 192) * 2 ^ 192 := by rw [hk, ← Nat.pow_add, Nat.sub_add_cancel hk192]
    have hword : (wordOf m 3).toNat = 2 ^ (k - 192) := by
      rw [wordOf, BitVec.toNat_ofNat]
      omega
    exact ⟨by rw [hword, hsplit], k - 192, hword⟩
  · rintro ⟨hm3, k, hk⟩
    exact ⟨k + 192, by rw [hm3, hk, Nat.pow_add]⟩

theorem exponent_lt_of_eq_two_pow {w : W64} {k : Nat} (hk : w.toNat = 2 ^ k) : k < 64 :=
  (Nat.pow_lt_pow_iff_right (by omega)).mp (hk ▸ w.isLt)

theorem clz64_of_eq_two_pow {w : W64} {k : Nat} (hk : w.toNat = 2 ^ k) : clz64 w = 63 - k := by
  have hne : w ≠ 0 := by
    rintro rfl
    exact absurd hk.symm (Nat.two_pow_pos k).ne'
  rw [clz64, if_neg hne, hk, Nat.log2_two_pow]

/-- The value of the direct tuple: four all-ones words below its top word. -/
theorem wordsVal_allOnes_top (w : W64) : wordsVal [-1, -1, -1, -1, w] = 2 ^ 256 * (w.toNat + 1) - 1 := by
  have hones : (-1 : W64).toNat = 2 ^ 64 - 1 := rfl
  simp only [wordsVal, hones]
  omega

/-- The tuple of a modulus whose top word is `2^k`: its `s` is `63 - k` (R91). -/
theorem recipPowerOfTwo_of_topWord {m : W256} {k : Nat} (hk : (wordOf m 3).toNat = 2 ^ k) :
    recipPowerOfTwo m = BitVec.ofNat 320 (2 ^ (320 - k) - 1) := by
  have hk64 : k < 64 := exponent_lt_of_eq_two_pow hk
  have hpos : 0 < 2 ^ (64 - k) := Nat.two_pow_pos (64 - k)
  have hle : 2 ^ (64 - k) ≤ 2 ^ 64 := Nat.pow_le_pow_right (by omega) (Nat.sub_le 64 k)
  have htop : (BitVec.ofNat 64 (2 ^ (64 - k) - 1)).toNat = 2 ^ (64 - k) - 1 := toNat_ofNat_of_lt (by omega)
  rw [recipPowerOfTwo, words5, clz64_of_eq_two_pow hk, wordsVal_allOnes_top, show 63 - k + 1 = 64 - k by omega, htop,
    Nat.sub_add_cancel hpos, ← Nat.pow_add, show 256 + (64 - k) = 320 - k by omega]

/-- Settles O30: by the top word, which a power of two in range is a shift of. -/
theorem powerOfTwoEdgeGivesTheReciprocal : Obligations.PowerOfTwoEdgeGivesTheReciprocal := by
  unfold Obligations.PowerOfTwoEdgeGivesTheReciprocal
  intro m hm
  rw [exists_eq_two_pow_iff_words hm, isPowerOfTwo_iff_words hm]
  refine ⟨Iff.rfl, ?_⟩
  rintro ⟨hm3, k, hk⟩
  have hk64 : k < 64 := exponent_lt_of_eq_two_pow hk
  have hvalue : m.toNat = 2 ^ (k + 192) := by rw [hm3, hk, Nat.pow_add]
  constructor
  · rw [clz64_of_eq_two_pow hk, hvalue]
    congr 1
    omega
  · rw [recipPowerOfTwo_of_topWord hk, hvalue, recip_two_pow (by omega), show 512 - (k + 192) = 320 - k by omega]

/-! ### MODSET and the read-outs (R94, R96 to R100) -/

theorem ofNat_din4 (s : State) : BitVec.ofNat 256 (din4 s) = s.din4 := by
  apply BitVec.eq_of_toNat_eq
  rw [din4, State.din4, BitVec.toNat_ofNat, BitVec.toNat_ofNat, Nat.mod_mod]

theorem toNat_din4 (s : State) : s.din4.toNat = din4 s := BitVec.toNat_ofNat _ _

/-- The slot that R22 gives for a modulus. -/
def constructedModulus (m : W256) : Modulus :=
  { m := m
    mu := BitVec.ofNat 320 (recip m.toNat)
    mmu0 := BitVec.ofNat 256 (multiplier m.toNat * m.toNat)
    mmu1 := BitVec.ofNat 256 ((multiplier m.toNat + 1) * m.toNat - 2 ^ 256) }

/-- R22 leaves no field of a slot open but `m`. -/
theorem eq_constructedModulus_of_valid {x : Modulus} (h : x.Valid) : x = constructedModulus x.m := by
  obtain ⟨_, hmu, h0, h1⟩ := h
  obtain ⟨m, mu, mmu0, mmu1⟩ := x
  simp only [constructedModulus, Modulus.mk.injEq, true_and]
  refine ⟨?_, ?_, ?_⟩
  · rw [← hmu, BitVec.ofNat_toNat, BitVec.setWidth_eq]
  · rw [← h0, BitVec.ofNat_toNat, BitVec.setWidth_eq]
  · rw [← h1, Nat.add_sub_cancel, BitVec.ofNat_toNat, BitVec.setWidth_eq]

theorem newmod_eq_constructedModulus {m : W256} (hm : 2 ^ 192 ≤ m.toNat) : newmod m = .ok (constructedModulus m) := by
  obtain ⟨x, hx⟩ := newmod_isOk hm
  obtain ⟨rfl, hvalid⟩ := newmod_valid hx
  rw [hx, ← eq_constructedModulus_of_valid hvalid]

/-- `MODSET` of a slot that can be filled, with a modulus that can be constructed (R96). -/
theorem execModset_of_newmod {ms : SlotIx} {x : Modulus} (hindex : ms.toNat < s.M.length)
    (hfree : ∀ y, ¬ s.modulusIs ms y) (hx : newmod s.din4 = .ok x) :
    exec (.modset ms) s = .next (completed (s.setModulus ms x) 0) := by
  calc exec (.modset ms) s = execModset ms s := rfl
    _ = s.finish (.ok { state := s.setModulus ms x, dout := doutNone }) := by
      rw [execModset, needModulus_eq_ok.mpr hindex, needFree_eq_ok.mpr hfree, hx]
      rfl
    _ = .next (completed (s.setModulus ms x) 0) := rfl

theorem hasModulus_eq_false_iff {ms : SlotIx} : s.hasModulus ms = false ↔ ∀ x, ¬ s.modulusIs ms x := by
  rw [← Bool.not_eq_true, hasModulus_iff, not_exists]

/-- Settles O33: the checks pass, and `newmod` builds the slot of R22. -/
theorem modsetFillsTheSlot : Obligations.ModsetFillsTheSlot := by
  unfold Obligations.ModsetFillsTheSlot
  intro ms s hindex hinvalid hm
  rw [← toNat_din4] at hm
  rw [execModset_of_newmod hindex (hasModulus_eq_false_iff.mp hinvalid) (newmod_eq_constructedModulus hm),
    ofNat_din4, ← toNat_din4, State.setModulus, constructedModulus, recip, multiplier]

/-- A read-out of a valid slot (R97 to R100). -/
theorem readOut_of_modulusIs {ms : SlotIx} {x : Modulus} (hx : s.modulusIs ms x) (field : Modulus → W320) :
    readOut ms field s = .next (completed s (field x)) := by
  rw [readOut, needModulus_eq_ok.mpr (modulusIs_lt hx), readModulus_eq_ok.mpr hx]
  rfl

/-- Settles O34: each is the read-out of its field. -/
theorem readOutsDriveTheSlotFields : Obligations.ReadOutsDriveTheSlotFields := by
  unfold Obligations.ReadOutsDriveTheSlotFields
  intro ms s x hx
  exact ⟨readOut_of_modulusIs hx fun slot => dout256 slot.m, readOut_of_modulusIs hx fun slot => slot.mu,
    readOut_of_modulusIs hx fun slot => dout256 slot.mmu0, readOut_of_modulusIs hx fun slot => dout256 slot.mmu1⟩

/-! ### When a command completes (R200 to R209) -/

section Completes

variable {α : Type} {rd rs : RegIx} {ms : SlotIx} {es : SlotIx}

/-- `r` takes none of its faults. -/
def Completes (r : Except ErrCode α) : Prop := ∃ a, r = .ok a

/-- The response of a command has code 0 exactly when the command completes (R74, R210). -/
theorem finish_err_eq_zero_iff {r : Except ErrCode Effect} (h : s.finish r = .next t) : t.rsp.err = 0 ↔ Completes r := by
  obtain ⟨e, rfl, rfl⟩ | ⟨c, rfl, rfl⟩ := finish_eq_next.mp h
  · exact ⟨fun _ => ⟨e, rfl⟩, fun _ => rfl⟩
  · exact ⟨fun hzero => absurd hzero (code_ne_zero c), fun ⟨_, he⟩ => nomatch he⟩

theorem completes_pure (a : α) : Completes (pure a) := ⟨a, rfl⟩

theorem completes_bind_iff {β : Type} {x : Except ErrCode α} {f : α → Except ErrCode β} :
    Completes (x >>= f) ↔ ∃ a, x = .ok a ∧ Completes (f a) := by
  constructor
  · rintro ⟨b, hb⟩
    obtain ⟨a, ha, hfa⟩ := bind_eq_ok.mp hb
    exact ⟨a, ha, b, hfa⟩
  · rintro ⟨a, ha, b, hfa⟩
    exact ⟨b, bind_eq_ok.mpr ⟨a, ha, hfa⟩⟩

/-- A sequence that only returns after its first part. -/
theorem completes_bind_pure_iff {β : Type} {x : Except ErrCode α} {f : α → β} :
    Completes (do return f (← x)) ↔ Completes x := by
  rw [completes_bind_iff]
  exact exists_congr fun a => and_iff_left (completes_pure (f a))

/-- A sequence that opens with a check. -/
theorem completes_check_iff {x : Except ErrCode Unit} {f : Unit → Except ErrCode α} :
    Completes (x >>= f) ↔ x = .ok () ∧ Completes (f ()) := by
  rw [completes_bind_iff]
  exact ⟨fun ⟨(), hx, hf⟩ => ⟨hx, hf⟩, fun ⟨hx, hf⟩ => ⟨(), hx, hf⟩⟩

theorem needReg_eq_ok_iff_hasReg : s.needReg rd = .ok () ↔ s.params.hasReg rd = true :=
  needReg_eq_ok.trans decide_eq_true_iff.symm

theorem needModulus_eq_ok_iff_hasModulus : s.needModulus ms = .ok () ↔ s.params.hasModulus ms = true :=
  needModulus_eq_ok.trans decide_eq_true_iff.symm

theorem needBase_eq_ok_iff_hasBase : s.needBase es = .ok () ↔ s.params.hasBase es = true :=
  needBase_eq_ok.trans decide_eq_true_iff.symm

/-- A modulus slot is read, and nothing after it fails. -/
theorem completes_readModulus_iff {f : Modulus → α} :
    Completes (do return f (← s.readModulus ms)) ↔ s.hasModulus ms = true := by
  rw [completes_bind_pure_iff, Completes, hasModulus_iff]
  simp only [readModulus_eq_ok]

/-- A register is read, then the slot of its tag, which is valid with it (R26), and nothing after them fails. -/
theorem completes_readTagged_iff (htags : s.TagsValid) {f : Residue → Modulus → α} :
    Completes (do
      let z ← s.readReg rd
      let slot ← s.readModulus z.tag
      return f z slot) ↔ s.hasReg rd = true := by
  simp only [completes_bind_iff, readReg_eq_ok, completes_pure, and_true, readModulus_eq_ok, hasReg_iff]
  exact exists_congr fun z => and_iff_left_of_imp fun hz => hasModulus_iff.mp (hasModulus_of_regIs htags hz)

/-- A base is read, then the slot of its tag, which is valid with it (R37), and nothing after them fails. -/
theorem completes_readTaggedBase_iff (htags : s.TagsValid) {f : ExpBase → Modulus → α} :
    Completes (do
      let base ← s.readBase es
      let slot ← s.readModulus base.tag
      return f base slot) ↔ s.hasBase es = true := by
  simp only [completes_bind_iff, readBase_eq_ok, completes_pure, and_true, readModulus_eq_ok, hasBase_iff]
  exact exists_congr fun b => and_iff_left_of_imp fun hb =>
    hasModulus_iff.mp (htags.2 _ (List.mem_of_getElem? hb) b rfl)

/-- A command on one residue. -/
theorem completes_unary_iff (htags : s.TagsValid) {f : Residue → Modulus → α} :
    Completes (do
      s.needReg rd
      let z ← s.readReg rd
      let slot ← s.readModulus z.tag
      return f z slot) ↔ s.params.hasReg rd = true ∧ s.hasReg rd = true := by
  rw [completes_check_iff, needReg_eq_ok_iff_hasReg, completes_readTagged_iff htags]

/-- A command on two residues: what is left of its checks is what it does with what it has read. -/
theorem completes_binary_iff (htags : s.TagsValid) {f : Residue → Residue → Modulus → Modulus → Except ErrCode α} :
    Completes (do
      s.needReg rd
      s.needReg rs
      let z ← s.readReg rd
      let x ← s.readReg rs
      let mz ← s.readModulus z.tag
      let mx ← s.readModulus x.tag
      f z x mz mx) ↔
      (s.params.hasReg rd = true ∧ s.params.hasReg rs = true) ∧ (s.hasReg rd = true ∧ s.hasReg rs = true) ∧
        ∀ z x mz mx, s.regIs rd z → s.regIs rs x → s.modulusIs z.tag mz → s.modulusIs x.tag mx →
          Completes (f z x mz mx) := by
  constructor
  · rintro ⟨e, he⟩
    obtain ⟨z, x, mz, mx, hz, hx, hmz, hmx, he⟩ := binaryReads_eq_ok.mp he
    refine ⟨⟨decide_eq_true (regIs_lt hz), decide_eq_true (regIs_lt hx)⟩,
      ⟨hasReg_iff.mpr ⟨z, hz⟩, hasReg_iff.mpr ⟨x, hx⟩⟩, fun z' x' mz' mx' hz' hx' hmz' hmx' => ?_⟩
    cases regIs_unique hz hz'
    cases regIs_unique hx hx'
    cases modulusIs_unique hmz hmz'
    cases modulusIs_unique hmx hmx'
    exact ⟨e, he⟩
  · rintro ⟨_, ⟨hrd, hrs⟩, hf⟩
    obtain ⟨z, hz⟩ := hasReg_iff.mp hrd
    obtain ⟨x, hx⟩ := hasReg_iff.mp hrs
    obtain ⟨mz, hmz⟩ := hasModulus_iff.mp (hasModulus_of_regIs htags hz)
    obtain ⟨mx, hmx⟩ := hasModulus_iff.mp (hasModulus_of_regIs htags hx)
    rw [binaryReads_bind hz hx hmz hmx]
    exact hf z x mz mx hz hx hmz hmx

/-- The two residues of a command are compatible (R203): the precondition of ADD, SUB and MUL. -/
def OperandsCompatible (s : State) (rd rs : RegIx) : Prop :=
  ∀ z x mz mx, s.regIs rd z → s.regIs rs x → s.modulusIs z.tag mz → s.modulusIs x.tag mx → z.tag = x.tag ∨ mz.m = mx.m

theorem operandsCompatible_self (s : State) (rd : RegIx) : OperandsCompatible s rd rd :=
  fun _ _ _ _ hz hx _ _ => .inl (congrArg Residue.tag (regIs_unique hz hx))

theorem completes_needCompat_iff {z x : Residue} {mz mx : Modulus} {a : α} :
    Completes (do needCompat z x mz mx; return a) ↔ z.tag = x.tag ∨ mz.m = mx.m := by
  rw [completes_check_iff, needCompat_eq_ok, and_iff_left (completes_pure a)]

/-- ADD and SUB. -/
theorem completes_additive_iff (htags : s.TagsValid) {f : Residue → Residue → Modulus → Modulus → α} :
    Completes (do
      s.needReg rd
      s.needReg rs
      let z ← s.readReg rd
      let x ← s.readReg rs
      let mz ← s.readModulus z.tag
      let mx ← s.readModulus x.tag
      needCompat z x mz mx
      return f z x mz mx) ↔
      (s.params.hasReg rd = true ∧ s.params.hasReg rs = true) ∧ (s.hasReg rd = true ∧ s.hasReg rs = true) ∧
        OperandsCompatible s rd rs := by
  simp only [completes_binary_iff htags, completes_needCompat_iff, OperandsCompatible]

theorem readReg_twice {f : Residue → Residue → Except ErrCode α} :
    (do let z ← s.readReg rd
        let x ← s.readReg rd
        f z x) = (do let z ← s.readReg rd
                     f z z) := by
  cases s.readReg rd <;> rfl

/-- MUL: a register with itself needs no check of compatibility, and would pass it (R142). -/
theorem execMul_err_eq_zero_iff (htags : s.TagsValid) (h : execMul rd rs s = .next t) :
    t.rsp.err = 0 ↔
      (s.params.hasReg rd = true ∧ s.params.hasReg rs = true) ∧ (s.hasReg rd = true ∧ s.hasReg rs = true) ∧
        OperandsCompatible s rd rs := by
  by_cases heq : rd = rs
  · subst heq
    simp only [execMul, if_true] at h
    rw [finish_err_eq_zero_iff h, completes_check_iff, completes_check_iff, readReg_twice, completes_readTagged_iff htags]
    simp only [needReg_eq_ok_iff_hasReg, operandsCompatible_self, and_self, and_self_left, and_true]
  · simp only [execMul, if_neg heq] at h
    rw [finish_err_eq_zero_iff h, completes_additive_iff htags]

/-- EQ and NEQ need no compatible operands (R180, R181). -/
theorem compareRegs_err_eq_zero_iff {answer : Bool → Bool} (htags : s.TagsValid)
    (h : compareRegs rd rs answer s = .next t) :
    t.rsp.err = 0 ↔
      (s.params.hasReg rd = true ∧ s.params.hasReg rs = true) ∧ s.hasReg rd = true ∧ s.hasReg rs = true := by
  rw [compareRegs] at h
  rw [finish_err_eq_zero_iff h, completes_binary_iff htags]
  refine and_congr_right fun _ => and_iff_left fun z x mz mx _ _ _ _ => ?_
  split
  · exact completes_pure _
  · exact completes_pure _

/-- The four read-outs of a modulus slot (R97 to R100). -/
theorem readOut_err_eq_zero_iff {field : Modulus → W320} (h : readOut ms field s = .next t) :
    t.rsp.err = 0 ↔ s.params.hasModulus ms = true ∧ s.hasModulus ms = true := by
  rw [readOut] at h
  rw [finish_err_eq_zero_iff h, completes_check_iff, needModulus_eq_ok_iff_hasModulus, completes_readModulus_iff]

/-- RSET and RED8: a register as a pure destination, and a slot as the source (R117, R187). -/
theorem completes_loadReg_iff {f : Modulus → α} :
    Completes (do
      s.needReg rd
      s.needModulus ms
      let slot ← s.readModulus ms
      return f slot) ↔
      (s.params.hasReg rd = true ∧ s.params.hasModulus ms = true) ∧ s.hasModulus ms = true := by
  rw [completes_check_iff, completes_check_iff, needReg_eq_ok_iff_hasReg, needModulus_eq_ok_iff_hasModulus,
    completes_readModulus_iff, and_assoc]

theorem completes_newmod_iff {m : W256} : Completes (newmod m) ↔ 2 ^ 192 ≤ m.toNat := by
  constructor
  · rintro ⟨x, hx⟩
    obtain ⟨rfl, hm, _⟩ := newmod_valid hx
    exact hm
  · exact newmod_isOk

/-- MODSET: the slot is free, then the modulus can be constructed (R96). -/
theorem execModset_err_eq_zero_iff (h : execModset ms s = .next t) :
    t.rsp.err = 0 ↔ s.params.hasModulus ms = true ∧ s.hasModulus ms = false ∧ 2 ^ 192 ≤ din4 s := by
  rw [execModset] at h
  rw [finish_err_eq_zero_iff h, completes_check_iff, completes_check_iff, needModulus_eq_ok_iff_hasModulus, needFree_eq_ok,
    ← hasModulus_eq_false_iff, completes_bind_pure_iff, completes_newmod_iff, toNat_din4]

/-- RCOPY (R189). -/
theorem execRcopy_err_eq_zero_iff (h : execRcopy rd rs s = .next t) :
    t.rsp.err = 0 ↔ (s.params.hasReg rd = true ∧ s.params.hasReg rs = true) ∧ s.hasReg rs = true := by
  rw [execRcopy] at h
  rw [finish_err_eq_zero_iff h, completes_check_iff, completes_check_iff, completes_bind_pure_iff, Completes, hasReg_iff]
  simp only [needReg_eq_ok_iff_hasReg, readReg_eq_ok, and_assoc]

/-- EXPB (R167). -/
theorem execExpb_err_eq_zero_iff (htags : s.TagsValid) (h : execExpb es rs s = .next t) :
    t.rsp.err = 0 ↔ (s.params.hasBase es = true ∧ s.params.hasReg rs = true) ∧ s.hasReg rs = true := by
  rw [execExpb] at h
  rw [finish_err_eq_zero_iff h, completes_check_iff, completes_unary_iff htags, needBase_eq_ok_iff_hasBase, and_assoc]

/-- EXPP (R169). -/
theorem execExpp_err_eq_zero_iff (htags : s.TagsValid) (h : execExpp rd es s = .next t) :
    t.rsp.err = 0 ↔ (s.params.hasReg rd = true ∧ s.params.hasBase es = true) ∧ s.hasBase es = true := by
  rw [execExpp] at h
  rw [finish_err_eq_zero_iff h, completes_check_iff, completes_check_iff, completes_readTaggedBase_iff htags,
    needReg_eq_ok_iff_hasReg, needBase_eq_ok_iff_hasBase, and_assoc]

end Completes

/-- Settles O21: each command's checks, in the order it makes them, are those of its indices, its sources and its own
precondition; the read of a tag's slot never fails (R26). -/
theorem commandCompletesExactlyWhenItsChecksPass : Obligations.CommandCompletesExactlyWhenItsChecksPass := by
  unfold Obligations.CommandCompletesExactlyWhenItsChecksPass
  intro i s t _ htags h
  cases i <;> simp only [Instr.wf, sourcesValid, ownPrecondition, Bool.and_eq_true, and_true, true_and]
  case nop =>
    exact (finish_err_eq_zero_iff (s := s) (r := pure { state := s, dout := doutNone }) h).trans
      (iff_true_intro (completes_pure _))
  case clrerr =>
    exact (finish_err_eq_zero_iff (s := s) (r := pure { state := s.clearErr, dout := doutNone }) h).trans
      (iff_true_intro (completes_pure _))
  case modset => exact execModset_err_eq_zero_iff h
  case modget | muget | mmu0get | mmu1get => exact readOut_err_eq_zero_iff h
  case rset | red8 => exact (finish_err_eq_zero_iff h).trans completes_loadReg_iff
  case rcopy => exact execRcopy_err_eq_zero_iff h
  case add | sub => exact (finish_err_eq_zero_iff h).trans (completes_additive_iff htags)
  case mul => exact execMul_err_eq_zero_iff htags h
  case eq | neq => exact compareRegs_err_eq_zero_iff htags h
  case expb => exact execExpb_err_eq_zero_iff htags h
  case expp => exact execExpp_err_eq_zero_iff htags h
  case rget | red4 | neg | dbl | sqr | inv | exp => exact (finish_err_eq_zero_iff h).trans (completes_unary_iff htags)

end Sys2Proof.Proofs

/-! PROOF. The Barrett reducers (`spec/41_reducers.md`): the quotient estimate of `reduce4` and its subtraction loop (R110, R111),
`reduce8` (R113, R114, R115), and the commands that store what a reducer answers (R116, R117, R188). -/

namespace Sys2Proof.Proofs

open Sys2Proof Sys2Proof.Machine Sys2Proof.Claims

variable {s : State} {slot : Modulus}

/-! ### The remainder by `reduce4` (R110, R111) -/

/-- The subtraction loop computes the remainder when its passes are enough for the quotient. -/
theorem subtractWhile_eq_mod {m : Nat} (n : Nat) (r : Nat) (hr : r < (n + 1) * m) : subtractWhile n m r = r % m := by
  induction n generalizing r with
  | zero => rw [subtractWhile, Nat.mod_eq_of_lt (by omega)]
  | succ n ih =>
    rw [subtractWhile]
    split
    next hle =>
      rw [Nat.succ_mul] at hr
      rw [ih (r - m) (by omega), ← Nat.mod_eq_sub_mod hle]
    next hlt => exact (Nat.mod_eq_of_lt (Nat.lt_of_not_le hlt)).symm

/-- `q3` of `reduce4`, its estimate of the quotient of `r` (R110). -/
def narrowEstimate (slot : Modulus) (r : W256) : Nat := (wordOf r 3).toNat * (wordOf slot.mu 4).toNat / 2 ^ 64

/-- The estimate fits one word, so the word that `reduce4` takes for it is exact. -/
theorem toNat_hi64_mul (a b : W64) : (hi64 (a.toNat * b.toNat)).toNat = a.toNat * b.toNat / 2 ^ 64 :=
  toNat_ofNat_of_lt (Nat.div_lt_of_lt_mul (Nat.mul_lt_mul'' a.isLt b.isLt))

theorem reduce4_eq_subtractWhile (slot : Modulus) (r : W256) :
    reduce4 slot r = BitVec.ofNat 256 (subtractWhile 2 slot.m.toNat (r.toNat - narrowEstimate slot r * slot.m.toNat)) := by
  rw [reduce4, toNat_hi64_mul, narrowEstimate]

theorem toNat_wordOf_three (r : W256) : (wordOf r 3).toNat = r.toNat / 2 ^ 192 :=
  toNat_ofNat_of_lt (Nat.div_lt_of_lt_mul r.isLt)

/-- The estimate as Barrett's, with `k` for the reciprocal (R22). -/
theorem narrowEstimate_eq (hslot : slot.Valid) (r : W256) :
    narrowEstimate slot r = r.toNat / 2 ^ 192 * multiplier slot.m.toNat / 2 ^ 64 := by
  obtain ⟨hm, hmu, _, _⟩ := hslot
  rw [narrowEstimate, toNat_wordOf_three, topWord_eq_multiplier hm hmu]

theorem two_pow_256 : 2 ^ 256 = 2 ^ 192 * 2 ^ 64 := by rw [show 256 = 192 + 64 from rfl, pow_add]

theorem narrowEstimate_mul_le (hslot : slot.Valid) (r : W256) : narrowEstimate slot r * slot.m.toNat ≤ r.toNat := by
  rw [narrowEstimate_eq hslot]
  exact barrettEstimate_mul_le (by positivity) (by positivity)
    (two_pow_256 ▸ (multiplier_mul_le _).trans (Nat.sub_le _ _))

theorem lt_narrowEstimate_mul_add (hslot : slot.Valid) (r : W256) :
    r.toNat < narrowEstimate slot r * slot.m.toNat + 3 * slot.m.toNat := by
  rw [narrowEstimate_eq hslot]
  obtain ⟨hm, _, _, _⟩ := hslot
  exact lt_barrettEstimate_mul_add (by positivity) (by positivity) hm
    (two_pow_256 ▸ le_multiplier_mul_add (Nat.lt_of_lt_of_le (by positivity) hm)) (two_pow_256 ▸ r.isLt)

/-- Above `2^255` the multiplier is 1, and the estimate is the top word shifted out. -/
theorem narrowEstimate_eq_zero (hslot : slot.Valid) (r : W256) (hm : 2 ^ 255 < slot.m.toNat) :
    narrowEstimate slot r = 0 := by
  have hlt := slot.m.isLt
  have hk : multiplier slot.m.toNat = 1 := Nat.div_eq_of_lt_le (by omega) (by omega)
  rw [narrowEstimate_eq hslot, hk, Nat.mul_one, Nat.div_div_eq_div_mul, ← two_pow_256, Nat.div_eq_of_lt r.isLt]

/-- R111: `reduce4` answers the canonical representative. -/
theorem reduce4_eq_canon (hslot : slot.Valid) (r : W256) : reduce4 slot r = canon slot r := by
  have hle := narrowEstimate_mul_le hslot r
  have hlt := lt_narrowEstimate_mul_add hslot r
  rw [Nat.mul_comm] at hle hlt
  rw [reduce4_eq_subtractWhile, Nat.mul_comm, subtractWhile_eq_mod 2 _ (by omega), Nat.sub_mul_mod hle, canon]

theorem toNat_canon (slot : Modulus) (r : W256) : (canon slot r).toNat = r.toNat % slot.m.toNat :=
  toNat_ofNat_of_lt ((Nat.mod_le _ _).trans_lt r.isLt)

/-- Settles O35: the estimate is Barrett's, and the loop subtracts what it leaves. -/
theorem reduceFourIsTheRemainder : Obligations.ReduceFourIsTheRemainder := by
  unfold Obligations.ReduceFourIsTheRemainder
  intro slot r hslot
  exact ⟨by rw [reduce4_eq_canon hslot, toNat_canon], narrowEstimate_mul_le hslot r, lt_narrowEstimate_mul_add hslot r,
    narrowEstimate_eq_zero hslot r⟩

/-! ### The class kept by `reduce8` (R113 to R115) -/

/-- Below `2^192` there is no multiple of `m` to subtract but 0 (R115 b). -/
theorem toNat_reduce8_of_lt (hslot : slot.Valid) {x : W512} (hx : x.toNat < 2 ^ 192) : (reduce8 slot x).toNat = x.toNat := by
  obtain ⟨j, _, hle, hvalue⟩ := reduce8_eq_sub hslot x
  have hm : 2 ^ 192 ≤ slot.m.toNat := hslot.1
  rw [← Nat.add_mul] at hle hvalue
  have hzero : quotientEstimate slot x.toNat + j = 0 :=
    Nat.lt_one_iff.mp (Nat.lt_of_mul_lt_mul_right (a := slot.m.toNat) (by omega))
  rw [hvalue, hzero, Nat.zero_mul, Nat.sub_zero]

/-- Settles O36: the bounds of the estimate's multiple of `m`, divided by `m`, are those of the quotient. -/
theorem reduceEightKeepsTheClass : Obligations.ReduceEightKeepsTheClass := by
  unfold Obligations.ReduceEightKeepsTheClass
  intro slot x hslot
  have hpos : 0 < slot.m.toNat := Nat.lt_of_lt_of_le (by positivity) hslot.1
  have hle := quotientEstimate_mul_le hslot x.toNat
  have hlt := lt_quotientEstimate_mul_add hslot (toNat_lt_two_pow x)
  have hquotient : x.toNat / slot.m.toNat < quotientEstimate slot x.toNat + 3 :=
    Nat.div_lt_of_lt_mul (by rwa [Nat.mul_comm, Nat.add_mul])
  exact ⟨(Nat.le_div_iff_mul_le hpos).mpr hle, Nat.le_of_lt_succ hquotient, hlt, reduce8_modEq hslot x,
    toNat_reduce8_of_lt hslot⟩

/-! ### The commands that store a reduced value (R116, R117, R188) -/

/-- A command on one residue whose reads succeed: it stores `g` under the tag and drives `d`. -/
theorem finish_unary {rd : RegIx} {z : Residue} (hz : s.regIs rd z) (hslot : s.modulusIs z.tag slot)
    (g : Residue → Modulus → W256) (d : Residue → Modulus → W320) :
    s.finish (do
      s.needReg rd
      let z ← s.readReg rd
      let slot ← s.readModulus z.tag
      return { state := s.setReg rd { z with r := g z slot }, dout := d z slot }) =
      .next (completed (withReg s rd z.tag (g z slot)) (d z slot)) :=
  finish_eq_next.mpr (.inl ⟨_, unaryReads_eq_ok.mpr ⟨z, slot, hz, hslot, rfl⟩, rfl⟩)

/-- A command that loads a register for a named slot whose checks pass: it stores `g` with the slot as tag. -/
theorem finish_loadReg {rd : RegIx} {ms : SlotIx} (hrd : rd.toNat < s.R.length) (hslot : s.modulusIs ms slot)
    (g : Modulus → W256) :
    s.finish (do
      s.needReg rd
      s.needModulus ms
      let slot ← s.readModulus ms
      return { state := s.setReg rd { tag := ms, r := g slot }, dout := doutNone }) =
      .next (completed (withReg s rd ms (g slot)) 0) := by
  rw [needReg_eq_ok.mpr hrd, needModulus_eq_ok.mpr (modulusIs_lt hslot), readModulus_eq_ok.mpr hslot]
  rfl

/-- Settles O37: the reads succeed, and `reduce4` answers the canonical representative. -/
theorem redFourAndRgetCanonicalise : Obligations.RedFourAndRgetCanonicalise := by
  unfold Obligations.RedFourAndRgetCanonicalise
  intro rd s z slot hz hslot hvalid
  rw [← toNat_canon, ← reduce4_eq_canon hvalid]
  exact ⟨finish_unary hz hslot (fun z slot => reduce4 slot z.r) fun _ _ => doutNone,
    finish_unary hz hslot (fun z slot => reduce4 slot z.r) fun z slot => dout256 (reduce4 slot z.r)⟩

/-- Settles O38: the checks pass, and the value is `reduce8` of the whole data input. -/
theorem redEightReducesTheWholeDataInput : Obligations.RedEightReducesTheWholeDataInput := by
  unfold Obligations.RedEightReducesTheWholeDataInput
  intro rd ms s slot hrd hslot
  exact finish_loadReg hrd hslot fun slot => reduce8 slot s.din8

end Sys2Proof.Proofs

/-! PROOF. The ring ALU (`spec/42_add_sub_neg_dbl.md`): the functions of R125 to R127 as integer values, their range and class
(R132), and the commands ADD, SUB, NEG, DBL that store them (R128 to R131, R134). -/

namespace Sys2Proof.Proofs

open Sys2Proof Sys2Proof.Machine Sys2Proof.Claims

variable {s : State} {slot : Modulus}

/-! ### The functions as integer values (R125 to R127) -/

/-- On a carry `z + x` is at least `2^256`, so the model's detour over the low 256 bits is R125's value. -/
theorem add256_eq_addValue (slot : Modulus) (z x : W256) :
    add256 slot z x = BitVec.ofNat 256 (addValue slot z.toNat x.toNat) := by
  simp only [add256, carry256, addValue, decide_eq_true_eq]
  split
  next hcarry =>
    rw [if_neg (Nat.not_lt.mpr hcarry)]
    split
    · exact congrArg (BitVec.ofNat 256) (by omega)
    · rfl
  next hfits => rw [if_pos (Nat.not_le.mp hfits)]

theorem sub256_eq_subValue (slot : Modulus) (z x : W256) :
    sub256 slot z x = BitVec.ofNat 256 (subValue slot z.toNat x.toNat) := by
  simp only [sub256, borrow256, subValue, decide_eq_true_eq]
  split
  next hborrow =>
    rw [if_neg (Nat.not_le.mpr hborrow)]
    split
    · rfl
    · exact congrArg (BitVec.ofNat 256) (by omega)
  next hfits => rw [if_pos (Nat.not_lt.mp hfits)]

theorem neg256_eq_negValue (slot : Modulus) (z : W256) : neg256 slot z = BitVec.ofNat 256 (negValue slot z.toNat) := by
  rw [neg256, negValue, apply_ite (BitVec.ofNat 256)]

/-! ### The commands on compatible residues (R128 to R131, R134) -/

/-- A command on two compatible residues whose reads succeed: it stores `g`, over the destination's slot, under the
destination's tag. -/
theorem finish_additive {rd rs : RegIx} {z x : Residue} {mz mx : Modulus} (hz : s.regIs rd z) (hx : s.regIs rs x)
    (hmz : s.modulusIs z.tag mz) (hmx : s.modulusIs x.tag mx) (hcompat : z.tag = x.tag ∨ mz.m = mx.m)
    (g : Modulus → W256 → W256 → W256) :
    s.finish (do
      s.needReg rd
      s.needReg rs
      let z ← s.readReg rd
      let x ← s.readReg rs
      let mz ← s.readModulus z.tag
      let mx ← s.readModulus x.tag
      needCompat z x mz mx
      return { state := s.setReg rd { z with r := g mz z.r x.r }, dout := doutNone }) =
      .next (completed (withReg s rd z.tag (g mz z.r x.r)) 0) := by
  rw [binaryReads_bind hz hx hmz hmx, needCompat_eq_ok.mpr hcompat]
  rfl

/-- Settles O39: the reads and the compatibility check succeed, and the values are those of R125 and R126. -/
theorem addAndSubFollowTheirRules : Obligations.AddAndSubFollowTheirRules := by
  unfold Obligations.AddAndSubFollowTheirRules
  intro rd rs s z x mz mx hz hx hmz hmx hcompat
  rw [← add256_eq_addValue, ← sub256_eq_subValue]
  exact ⟨finish_additive hz hx hmz hmx hcompat add256, finish_additive hz hx hmz hmx hcompat sub256⟩

/-- Settles O40: the reads succeed, and the values are those of R127 and, with both operands the same, R125. -/
theorem negAndDblFollowTheirRules : Obligations.NegAndDblFollowTheirRules := by
  unfold Obligations.NegAndDblFollowTheirRules
  intro rd s z slot hz hslot
  rw [← neg256_eq_negValue, ← add256_eq_addValue]
  exact ⟨finish_unary hz hslot (fun z slot => neg256 slot z.r) fun _ _ => doutNone,
    finish_unary hz hslot (fun z slot => add256 slot z.r z.r) fun _ _ => doutNone⟩

/-! ### Range and class (R132) -/

theorem m_dvd_mmu0 (hslot : slot.Valid) : slot.m.toNat ∣ slot.mmu0.toNat := by
  obtain ⟨_, _, hmmu0, _⟩ := hslot
  exact ⟨_, hmmu0.trans (Nat.mul_comm _ _)⟩

theorem m_dvd_mmu1_add (hslot : slot.Valid) : slot.m.toNat ∣ slot.mmu1.toNat + 2 ^ 256 := by
  obtain ⟨_, _, _, hmmu1⟩ := hslot
  exact ⟨_, hmmu1.trans (Nat.mul_comm _ _)⟩

/-- `mmu1` is `mmu0` advanced by `m`, which is below `2^256`, and wrapped at `2^256` (R22). -/
theorem mmu1_lt_mmu0 (hslot : slot.Valid) : slot.mmu1.toNat < slot.mmu0.toNat := by
  obtain ⟨_, _, hmmu0, hmmu1⟩ := hslot
  have hm := slot.m.isLt
  rw [Nat.succ_mul] at hmmu1
  omega

/-- `add256` fits 256 bits and takes a multiple of `m` off the sum: none, `k*m`, or `(k+1)*m` (R125). -/
theorem addValue_spec (hslot : slot.Valid) (z x : W256) :
    addValue slot z.toNat x.toNat < 2 ^ 256 ∧
      ∃ c, slot.m.toNat ∣ c ∧ addValue slot z.toNat x.toNat + c = z.toNat + x.toNat := by
  have hlt := mmu1_lt_mmu0 hslot
  have hz := z.isLt
  have hx := x.isLt
  unfold addValue
  split
  next hfits => exact ⟨hfits, 0, dvd_zero _, rfl⟩
  next =>
  have hmmu0 := slot.mmu0.isLt
  split
  · exact ⟨by omega, _, m_dvd_mmu0 hslot, by omega⟩
  · exact ⟨by omega, _, m_dvd_mmu1_add hslot, by omega⟩

/-- `sub256` fits 256 bits and adds a multiple of `m` to the difference: none, `(k+1)*m`, or `k*m` (R126). -/
theorem subValue_spec (hslot : slot.Valid) (z x : W256) :
    subValue slot z.toNat x.toNat < 2 ^ 256 ∧
      ∃ c, slot.m.toNat ∣ c ∧ subValue slot z.toNat x.toNat + x.toNat = z.toNat + c := by
  have hlt := mmu1_lt_mmu0 hslot
  have hz := z.isLt
  have hx := x.isLt
  unfold subValue
  split
  next hfits => exact ⟨by omega, 0, dvd_zero _, Nat.sub_add_cancel hfits⟩
  next =>
  have hmmu0 := slot.mmu0.isLt
  split
  · exact ⟨by omega, _, m_dvd_mmu1_add hslot, by omega⟩
  · exact ⟨by omega, _, m_dvd_mmu0 hslot, by omega⟩

/-- `neg256` fits 256 bits and adds `k*m` or `(k+1)*m` to minus the operand (R127). -/
theorem negValue_spec (hslot : slot.Valid) (z : W256) :
    negValue slot z.toNat < 2 ^ 256 ∧ slot.m.toNat ∣ negValue slot z.toNat + z.toNat := by
  have hlt := mmu1_lt_mmu0 hslot
  have hmmu0 := slot.mmu0.isLt
  unfold negValue
  split
  next hle => exact ⟨by omega, (Nat.sub_add_cancel hle).symm ▸ m_dvd_mmu0 hslot⟩
  next =>
  have hz : z.toNat ≤ slot.mmu1.toNat + 2 ^ 256 := by omega
  exact ⟨by omega, (Nat.sub_add_cancel hz).symm ▸ m_dvd_mmu1_add hslot⟩

theorem toNat_add256 (hslot : slot.Valid) (z x : W256) : (add256 slot z x).toNat = addValue slot z.toNat x.toNat := by
  rw [add256_eq_addValue, toNat_ofNat_of_lt (addValue_spec hslot z x).1]

theorem toNat_sub256 (hslot : slot.Valid) (z x : W256) : (sub256 slot z x).toNat = subValue slot z.toNat x.toNat := by
  rw [sub256_eq_subValue, toNat_ofNat_of_lt (subValue_spec hslot z x).1]

theorem toNat_neg256 (hslot : slot.Valid) (z : W256) : (neg256 slot z).toNat = negValue slot z.toNat := by
  rw [neg256_eq_negValue, toNat_ofNat_of_lt (negValue_spec hslot z).1]

theorem add256_modEq (hslot : slot.Valid) (z x : W256) :
    (add256 slot z x).toNat ≡ z.toNat + x.toNat [MOD slot.m.toNat] := by
  obtain ⟨_, c, hc, hsum⟩ := addValue_spec hslot z x
  rw [toNat_add256 hslot, ← hsum]
  exact Nat.left_modEq_add_iff.mpr hc

theorem sub256_modEq (hslot : slot.Valid) (z x : W256) :
    ((sub256 slot z x).toNat : Int) ≡ (z.toNat : Int) - x.toNat [ZMOD slot.m.toNat] := by
  obtain ⟨_, c, hc, hdifference⟩ := subValue_spec hslot z x
  rw [toNat_sub256 hslot]
  refine (Int.modEq_iff_dvd.mpr ?_).symm
  rw [show (subValue slot z.toNat x.toNat : Int) - (z.toNat - x.toNat) = c by omega]
  exact Int.natCast_dvd_natCast.mpr hc

theorem neg256_modEq (hslot : slot.Valid) (z : W256) :
    ((neg256 slot z).toNat : Int) ≡ -(z.toNat : Int) [ZMOD slot.m.toNat] := by
  rw [toNat_neg256 hslot]
  refine (Int.modEq_iff_dvd.mpr ?_).symm
  rw [sub_neg_eq_add]
  exact_mod_cast (negValue_spec hslot z).2

/-- Settles O41: each value differs from the exact integer by a multiple of `m` that brings it below `2^256`. -/
theorem additiveResultsHaveTheRightClass : Obligations.AdditiveResultsHaveTheRightClass := by
  unfold Obligations.AdditiveResultsHaveTheRightClass
  intro slot z x hslot
  exact ⟨add256_modEq hslot z x, sub256_modEq hslot z x, neg256_modEq hslot z, (addValue_spec hslot z x).1,
    (subValue_spec hslot z x).1, (negValue_spec hslot z).1⟩

end Sys2Proof.Proofs

/-! PROOF. Ring multiplication and squaring (`spec/43_mul_sqr.md`): the schoolbook product and the squaring shortcut are the
integer products (R140, R141), and the commands MUL and SQR, which store the reduced product (R142 to R144). -/

namespace Sys2Proof.Proofs

open Sys2Proof Sys2Proof.Machine Sys2Proof.Claims

variable {s : State} {slot : Modulus}

/-! ### The products (R140, R141) -/

theorem sum_map_range_four (f : Nat → Nat) : ((List.range 4).map f).sum = f 0 + f 1 + f 2 + f 3 := by
  simp only [List.sum_range_succ, List.range_zero, List.map_nil, List.sum_nil, Nat.zero_add]

/-- A 256-bit value as the sum that R141 writes for it: its four words, each at its weight (R11). -/
theorem sum_wordOf_mul_pow (v : W256) : ((List.range 4).map fun i => (wordOf v i).toNat * 2 ^ (64 * i)).sum = v.toNat := by
  rw [← wordsVal_wordList4, sum_map_range_four]
  simp only [wordList4, wordsVal]
  omega

/-- The weight of a partial product is the product of the weights, so the double sum is the product of the two sums (R140). -/
theorem schoolbook_eq_mul (a b : W256) : schoolbook a b = a.toNat * b.toNat := by
  calc schoolbook a b
      = ((List.range 4).map fun i => ((List.range 4).map fun j =>
          (wordOf a i).toNat * 2 ^ (64 * i) * ((wordOf b j).toNat * 2 ^ (64 * j))).sum).sum := by
        simp only [schoolbook, Nat.mul_add, pow_add, mul_mul_mul_comm]
    _ = a.toNat * b.toNat := by
        simp only [List.sum_map_mul_left, List.sum_map_mul_right, sum_wordOf_mul_pow]

/-- Of the sixteen partial products of a value with itself the twelve off the diagonal are six, each twice (R141). Stated over any
words and any base: on the model's own weights the kernel would unfold the powers of two. -/
theorem sum_partialProducts_self (word : Nat → Nat) (base : Nat) :
    2 * ([(0, 1), (0, 2), (0, 3), (1, 2), (1, 3), (2, 3)].map fun ij : Nat × Nat =>
        word ij.1 * word ij.2 * base ^ (ij.1 + ij.2)).sum +
      ((List.range 4).map fun i => word i ^ 2 * (base ^ 2) ^ i).sum =
      ((List.range 4).map fun i => ((List.range 4).map fun j => word i * word j * base ^ (i + j)).sum).sum := by
  simp only [sum_map_range_four, List.map_cons, List.map_nil, List.sum_cons, List.sum_nil]
  ring

theorem squareShortcut_eq_schoolbook (a : W256) : squareShortcut a = schoolbook a a := by
  simp only [squareShortcut, schoolbook, pow_mul]
  exact sum_partialProducts_self (fun i => (wordOf a i).toNat) (2 ^ 64)

/-- A product of two 256-bit values fits the 512 bits that `reduce8` is given (R140). -/
theorem toNat_mul_toNat_lt (a b : W256) : a.toNat * b.toNat < 2 ^ 512 := by
  rw [show 512 = 256 + 256 from rfl, pow_add]
  exact Nat.mul_lt_mul'' a.isLt b.isLt

theorem mulmod_comm (slot : Modulus) (a b : W256) : mulmod slot a b = mulmod slot b a := by
  rw [mulmod, mulmod, Nat.mul_comm]

theorem sqrmod_eq_mulmod_self (slot : Modulus) (a : W256) : sqrmod slot a = mulmod slot a a := by
  rw [sqrmod, mulmod]

/-- Settles O43: both ways of multiplying give the integer product, which is what `mulmod` and `sqrmod` reduce. -/
theorem productsAreExact : Obligations.ProductsAreExact := by
  unfold Obligations.ProductsAreExact
  intro slot a b
  have hshortcut : squareShortcut a = a.toNat * a.toNat := (squareShortcut_eq_schoolbook a).trans (schoolbook_eq_mul a a)
  exact ⟨schoolbook_eq_mul a b, hshortcut, toNat_mul_toNat_lt a b, by rw [mulmod, schoolbook_eq_mul], mulmod_comm slot a b,
    by rw [sqrmod, hshortcut], sqrmod_eq_mulmod_self slot a⟩

/-! ### The commands (R142, R143, R144) -/

/-- `MUL` of a register with itself is `SQR`, its faults included (R144). -/
theorem execMul_self (rd : RegIx) (s : State) : execMul rd rd s = execSqr rd s := by
  simp only [execMul, execSqr, if_true, readReg_twice]
  cases s.needReg rd <;> rfl

/-- SQR on a valid register completes with `sqrmod` of it, under its tag (R143). -/
theorem execSqr_eq_next {rd : RegIx} {z : Residue} (hz : s.regIs rd z) (hslot : s.modulusIs z.tag slot) :
    execSqr rd s = .next (completed (withReg s rd z.tag (sqrmod slot z.r)) 0) :=
  finish_unary hz hslot (fun z slot => sqrmod slot z.r) fun _ _ => doutNone

/-- MUL on compatible valid registers completes with `mulmod` of them, under the destination's tag, by both of its paths
(R142). -/
theorem execMul_eq_next {rd rs : RegIx} {z x : Residue} {mz mx : Modulus} (hz : s.regIs rd z) (hx : s.regIs rs x)
    (hmz : s.modulusIs z.tag mz) (hmx : s.modulusIs x.tag mx) (hcompat : z.tag = x.tag ∨ mz.m = mx.m) :
    execMul rd rs s = .next (completed (withReg s rd z.tag (mulmod mz z.r x.r)) 0) := by
  by_cases heq : rd = rs
  · subst heq
    obtain rfl := regIs_unique hz hx
    rw [execMul_self, execSqr_eq_next hz hmz, sqrmod_eq_mulmod_self]
  · rw [execMul_of_ne heq hz hx hmz hmx, needCompat_eq_ok.mpr hcompat]
    rfl

/-- Settles O42: what the two commands store, `mulmod` and `sqrmod`, is `reduce8` of the product. -/
theorem mulAndSqrReduceTheExactProduct : Obligations.MulAndSqrReduceTheExactProduct := by
  unfold Obligations.MulAndSqrReduceTheExactProduct
  exact ⟨fun _ _ _ _ _ _ _ hz hx hmz hmx hcompat => execMul_eq_next hz hx hmz hmx hcompat,
    fun _ _ _ _ hz hslot => execSqr_eq_next hz hslot⟩

end Sys2Proof.Proofs

/-! PROOF. Modular inversion (`spec/44_inversion.md`): what the loop of the binary extended GCD keeps (R152, R153), why it ends
(R154), how far its cofactors grow (R156), the value and the success of `inv256` (R155), and the command INV (R151). -/

namespace Sys2Proof.Proofs

open Sys2Proof Sys2Proof.Machine Sys2Proof.Claims

variable {slot : Modulus} {m r : Nat} {g : GcdState}

/-! ### The symmetry of the two rows (R150) -/

/-- The two rows `u, a, b` and `v, c, d` exchanged: step 2 is step 1 on the exchanged rows, and so are the two cases of step 3. -/
def swapRows (g : GcdState) : GcdState := { u := g.v, v := g.u, a := g.c, b := g.d, c := g.a, d := g.b }

theorem halveVOnce_eq_swapRows (m r : Nat) (g : GcdState) :
    halveVOnce m r g = swapRows (halveUOnce m r (swapRows g)) := by
  rw [halveVOnce, halveUOnce, apply_ite swapRows]
  rfl

theorem halveV_eq_swapRows (m r n : Nat) (g : GcdState) : halveV m r n g = swapRows (halveU m r n (swapRows g)) := by
  induction n generalizing g with
  | zero => rfl
  | succ n ih =>
    rw [halveV, ih, halveVOnce_eq_swapRows]
    exact (apply_ite swapRows (g.v % 2 = 0) _ (swapRows g)).symm

/-- Step 3 when `v` is not above `u`. -/
def subtractRowV (g : GcdState) : GcdState := { g with u := g.u - g.v, a := g.a - g.c, b := g.b - g.d }

theorem gcdSubtract_eq_ite (g : GcdState) :
    gcdSubtract g = if g.v ≤ g.u then subtractRowV g else swapRows (subtractRowV (swapRows g)) := rfl

/-- Steps 1 and 2 of a pass. -/
def halveBoth (m r : Nat) (g : GcdState) : GcdState := halveV m r 256 (halveU m r 256 g)

theorem gcdPass_eq (m r : Nat) (g : GcdState) : gcdPass m r g = gcdSubtract (halveBoth m r g) := rfl

/-! ### Rules for the loops -/

/-- What a halving of an even `u` keeps, step 1 keeps. -/
theorem halveU_induction {P : GcdState → Prop} (hstep : ∀ g, g.u % 2 = 0 → P g → P (halveUOnce m r g)) (n : Nat)
    (h : P g) : P (halveU m r n g) := by
  induction n generalizing g with
  | zero => exact h
  | succ n ih =>
    rw [halveU]
    split
    next heven => exact ih (hstep g heven h)
    next => exact h

/-- What the exchange of the rows and a halving of an even `u` keep, steps 1 and 2 keep. -/
theorem halveBoth_induction {P : GcdState → Prop} (hswap : ∀ g, P g → P (swapRows g))
    (hstep : ∀ g, g.u % 2 = 0 → P g → P (halveUOnce m r g)) (h : P g) : P (halveBoth m r g) := by
  rw [halveBoth, halveV_eq_swapRows]
  exact hswap _ (halveU_induction hstep 256 (hswap _ (halveU_induction hstep 256 h)))

/-- What step 3 leads to, from its first case alone. -/
theorem gcdSubtract_induction {P Q : GcdState → Prop} (hP : ∀ g, P g → P (swapRows g)) (hQ : ∀ g, Q g → Q (swapRows g))
    (hstep : ∀ g, g.v ≤ g.u → P g → Q (subtractRowV g)) (h : P g) : Q (gcdSubtract g) := by
  rw [gcdSubtract_eq_ite]
  split
  next hle => exact hstep g hle h
  next hlt => exact hQ _ (hstep _ (Nat.le_of_not_le hlt) (hP g h))

/-- What a pass keeps, the outer loop keeps. -/
theorem gcdLoop_induction {P : GcdState → Prop} (hstep : ∀ g, g.u ≠ 0 → P g → P (gcdPass m r g)) (n : Nat) (h : P g) :
    P (gcdLoop m r n g) := by
  induction n generalizing g with
  | zero => exact h
  | succ n ih =>
    rw [gcdLoop]
    split
    next => exact h
    next hu => exact ih (hstep g hu h)

theorem gcdLoop_succ_of_ne (n : Nat) (hu : g.u ≠ 0) : gcdLoop m r (n + 1) g = gcdLoop m r n (gcdPass m r g) := by
  rw [gcdLoop, if_neg hu]

/-- The loop has ended when `u` is 0. -/
theorem gcdLoop_of_u_eq_zero (n : Nat) (hu : g.u = 0) : gcdLoop m r n g = g := by
  cases n with
  | zero => rfl
  | succ n => rw [gcdLoop, if_pos hu]

theorem gcdLoop_add (k n : Nat) (g : GcdState) : gcdLoop m r (k + n) g = gcdLoop m r n (gcdLoop m r k g) := by
  induction k generalizing g with
  | zero => rw [Nat.zero_add, gcdLoop]
  | succ k ih =>
    by_cases hu : g.u = 0
    · rw [gcdLoop_of_u_eq_zero _ hu, gcdLoop_of_u_eq_zero _ hu, gcdLoop_of_u_eq_zero _ hu]
    · rw [Nat.succ_add, gcdLoop_succ_of_ne _ hu, gcdLoop_succ_of_ne _ hu, ih]

/-! ### One halving (R153) -/

@[simp] theorem halveUOnce_u (m r : Nat) (g : GcdState) : (halveUOnce m r g).u = g.u / 2 := by
  unfold halveUOnce; split <;> rfl

@[simp] theorem halveUOnce_v (m r : Nat) (g : GcdState) : (halveUOnce m r g).v = g.v := by
  unfold halveUOnce; split <;> rfl

@[simp] theorem halveUOnce_c (m r : Nat) (g : GcdState) : (halveUOnce m r g).c = g.c := by
  unfold halveUOnce; split <;> rfl

@[simp] theorem halveUOnce_d (m r : Nat) (g : GcdState) : (halveUOnce m r g).d = g.d := by
  unfold halveUOnce; split <;> rfl

/-- When `u` is even and a cofactor is odd, the sign-correcting update makes both cofactors even (R153). -/
theorem even_add_and_even_sub {a b m r : Int} (hodd : ¬ (Even r ∧ Even m)) (hu : Even (a * r + b * m))
    (hab : ¬ (Even a ∧ Even b)) : Even (a + m) ∧ Even (b - r) := by
  rw [Int.even_add, Int.even_mul, Int.even_mul] at hu
  rw [Int.even_add, Int.even_sub]
  tauto

/-- The shifts of a halving drop no set bit: doubling undoes them, up to the sign-correcting update (R153). -/
theorem two_mul_halveUOnce (hodd : ¬ (r % 2 = 0 ∧ m % 2 = 0)) (hrow : g.a * r + g.b * m = g.u) (heven : g.u % 2 = 0) :
    (2 * (halveUOnce m r g).a = g.a ∧ 2 * (halveUOnce m r g).b = g.b) ∨
      (2 * (halveUOnce m r g).a = g.a + m ∧ 2 * (halveUOnce m r g).b = g.b - r) := by
  unfold halveUOnce
  split
  next hab =>
    obtain ⟨ha, hb⟩ := even_add_and_even_sub (a := g.a) (b := g.b) (m := m) (r := r)
      (by simpa only [Int.even_coe_nat, Nat.even_iff] using hodd)
      (by rw [hrow, Int.even_coe_nat, Nat.even_iff]; exact heven)
      (by rw [Int.even_iff, Int.even_iff]; omega)
    exact .inr ⟨Int.two_mul_ediv_two_of_even ha, Int.two_mul_ediv_two_of_even hb⟩
  next hab =>
    simp only [asr1]
    omega

/-- The update `a + m`, `b - r` and the halving keep the equation of the row (R152). -/
theorem halveUOnce_row (hodd : ¬ (r % 2 = 0 ∧ m % 2 = 0)) (hrow : g.a * r + g.b * m = g.u) (heven : g.u % 2 = 0) :
    (halveUOnce m r g).a * r + (halveUOnce m r g).b * m = (halveUOnce m r g).u := by
  have hu : (2 * (halveUOnce m r g).u : Int) = g.u := by rw [halveUOnce_u]; omega
  apply mul_left_cancel₀ (two_ne_zero (α := Int))
  obtain ⟨ha, hb⟩ | ⟨ha, hb⟩ := two_mul_halveUOnce hodd hrow heven <;>
    linear_combination hrow - hu + r * ha + m * hb

/-! ### The equations and the gcd (R152) -/

/-- What every assignment group of the loop keeps: the two equations and the gcd (R152), and the 256 bits of `u` and `v`
(R150). -/
structure GcdInv (m r : Nat) (g : GcdState) : Prop where
  bezout : Bezout m r g
  gcd_eq : Nat.gcd g.u g.v = Nat.gcd r m
  u_lt : g.u < 2 ^ 256
  v_lt : g.v < 2 ^ 256

theorem gcdStart_inv (hm : m < 2 ^ 256) (hr : r < 2 ^ 256) : GcdInv m r (gcdStart m r) where
  bezout := ⟨by simp [gcdStart], by simp [gcdStart]⟩
  gcd_eq := rfl
  u_lt := hr
  v_lt := hm

theorem GcdInv.swap (h : GcdInv m r g) : GcdInv m r (swapRows g) where
  bezout := h.bezout.symm
  gcd_eq := (Nat.gcd_comm _ _).trans h.gcd_eq
  u_lt := h.v_lt
  v_lt := h.u_lt

/-- The gcd stays odd, so `u` and `v` are never both even. -/
theorem GcdInv.odd_v (hodd : ¬ (r % 2 = 0 ∧ m % 2 = 0)) (h : GcdInv m r g) (heven : g.u % 2 = 0) : Odd g.v := by
  by_contra hv
  have hdvd : 2 ∣ Nat.gcd r m := h.gcd_eq ▸ Nat.dvd_gcd (Nat.dvd_of_mod_eq_zero heven) (Nat.not_odd_iff_even.mp hv).two_dvd
  exact hodd ⟨Nat.mod_eq_zero_of_dvd (hdvd.trans (Nat.gcd_dvd_left r m)),
    Nat.mod_eq_zero_of_dvd (hdvd.trans (Nat.gcd_dvd_right r m))⟩

theorem halveUOnce_inv (hodd : ¬ (r % 2 = 0 ∧ m % 2 = 0)) (heven : g.u % 2 = 0) (h : GcdInv m r g) :
    GcdInv m r (halveUOnce m r g) where
  bezout := ⟨halveUOnce_row hodd h.bezout.1 heven, by simpa using h.bezout.2⟩
  gcd_eq := by
    have hcoprime : Nat.Coprime 2 g.v := (h.odd_v hodd heven).coprime_two_left
    rw [halveUOnce_u, halveUOnce_v, ← hcoprime.gcd_mul_left_cancel, Nat.mul_div_cancel' (Nat.dvd_of_mod_eq_zero heven),
      h.gcd_eq]
  u_lt := (halveUOnce_u m r g).trans_lt ((Nat.div_le_self _ _).trans_lt h.u_lt)
  v_lt := (halveUOnce_v m r g).trans_lt h.v_lt

theorem halveBoth_inv (hodd : ¬ (r % 2 = 0 ∧ m % 2 = 0)) (h : GcdInv m r g) : GcdInv m r (halveBoth m r g) :=
  halveBoth_induction (fun _ h => h.swap) (fun _ heven h => halveUOnce_inv hodd heven h) h

theorem subtractRowV_inv (hle : g.v ≤ g.u) (h : GcdInv m r g) : GcdInv m r (subtractRowV g) where
  bezout := by
    obtain ⟨hu, hv⟩ := h.bezout
    refine ⟨?_, hv⟩
    simp only [subtractRowV, Nat.cast_sub hle]
    linear_combination hu - hv
  gcd_eq := (Nat.gcd_sub_self_left hle).trans h.gcd_eq
  u_lt := (Nat.sub_le _ _).trans_lt h.u_lt
  v_lt := h.v_lt

theorem gcdSubtract_inv (h : GcdInv m r g) : GcdInv m r (gcdSubtract g) :=
  gcdSubtract_induction (fun _ h => h.swap) (fun _ h => h.swap) (fun _ hle h => subtractRowV_inv hle h) h

theorem gcdPass_inv (hodd : ¬ (r % 2 = 0 ∧ m % 2 = 0)) (h : GcdInv m r g) : GcdInv m r (gcdPass m r g) := by
  rw [gcdPass_eq]
  exact gcdSubtract_inv (halveBoth_inv hodd h)

theorem gcdLoop_inv (hodd : ¬ (r % 2 = 0 ∧ m % 2 = 0)) (n : Nat) (h : GcdInv m r g) : GcdInv m r (gcdLoop m r n g) :=
  gcdLoop_induction (fun _ _ h => gcdPass_inv hodd h) n h

/-! ### Termination (R154) -/

/-- Step 1 ends: a positive value below `2^n` is odd after at most `n` halvings. -/
theorem halveU_u_odd (n : Nat) (hpos : 0 < g.u) (hlt : g.u < 2 ^ n) : (halveU m r n g).u % 2 = 1 := by
  induction n generalizing g with
  | zero => omega
  | succ n ih =>
    rw [halveU]
    split
    next heven =>
      rw [pow_succ] at hlt
      exact ih (by rw [halveUOnce_u]; omega) (by rw [halveUOnce_u]; omega)
    next hu => omega

theorem halveU_v (m r n : Nat) (g : GcdState) : (halveU m r n g).v = g.v :=
  halveU_induction (P := fun h => h.v = g.v) (fun h _ hv => (halveUOnce_v m r h).trans hv) n rfl

theorem halveV_u (m r n : Nat) (g : GcdState) : (halveV m r n g).u = g.u := by
  rw [halveV_eq_swapRows]
  exact halveU_v m r n (swapRows g)

/-- What steps 1 and 2 need to end in 256 halvings each: both values positive and below `2^256`. -/
theorem halveBoth_odd (h : GcdInv m r g) (hu : 0 < g.u) (hv : 0 < g.v) :
    (halveBoth m r g).u % 2 = 1 ∧ (halveBoth m r g).v % 2 = 1 := by
  constructor
  · rw [halveBoth, halveV_u]
    exact halveU_u_odd 256 hu h.u_lt
  · rw [halveBoth, halveV_eq_swapRows]
    have hkept := halveU_v m r 256 g
    exact halveU_u_odd (g := swapRows (halveU m r 256 g)) 256 (hv.trans_eq hkept.symm) (hkept.trans_lt h.v_lt)

theorem halveBoth_mul_dvd (m r : Nat) (g : GcdState) : (halveBoth m r g).u * (halveBoth m r g).v ∣ g.u * g.v := by
  refine halveBoth_induction (P := fun h => h.u * h.v ∣ g.u * g.v) (fun h hdvd => ?_) (fun h heven hdvd => ?_) dvd_rfl
  · exact Nat.mul_comm h.u h.v ▸ hdvd
  · rw [halveUOnce_u, halveUOnce_v]
    exact (Nat.mul_dvd_mul_right (Nat.div_dvd_of_dvd (Nat.dvd_of_mod_eq_zero heven)) _).trans hdvd

theorem gcdSubtract_v_pos (hv : 0 < g.v) : 0 < (gcdSubtract g).v := by
  unfold gcdSubtract
  split
  · exact hv
  next hlt => exact Nat.sub_pos_of_lt (Nat.lt_of_not_le hlt)

/-- Step 3 makes one of two odd values even, and neither greater. -/
theorem gcdSubtract_mul (hu : g.u % 2 = 1) (hv : g.v % 2 = 1) :
    2 ∣ (gcdSubtract g).u * (gcdSubtract g).v ∧ (gcdSubtract g).u * (gcdSubtract g).v ≤ g.u * g.v := by
  refine gcdSubtract_induction (P := fun h => h.u % 2 = 1 ∧ h.v % 2 = 1 ∧ h.u * h.v ≤ g.u * g.v)
    (Q := fun h => 2 ∣ h.u * h.v ∧ h.u * h.v ≤ g.u * g.v) (fun h => ?_) (fun h => ?_) (fun h hle => ?_) ⟨hu, hv, le_rfl⟩
  · rintro ⟨hu, hv, hmul⟩
    exact ⟨hv, hu, Nat.mul_comm h.u h.v ▸ hmul⟩
  · intro hmul
    exact Nat.mul_comm h.u h.v ▸ hmul
  · rintro ⟨hu, hv, hmul⟩
    exact ⟨(show 2 ∣ h.u - h.v by omega).mul_right _, (Nat.mul_le_mul_right _ (Nat.sub_le _ _)).trans hmul⟩

theorem gcdPass_v_pos (h : GcdInv m r g) (hu : 0 < g.u) (hv : 0 < g.v) : 0 < (gcdPass m r g).v := by
  obtain ⟨_, hodd_v⟩ := halveBoth_odd h hu hv
  rw [gcdPass_eq]
  exact gcdSubtract_v_pos (Nat.odd_iff.mpr hodd_v).pos

/-- A pass leaves an even product, not above the one before; and an even product it halves (R154). -/
theorem gcdPass_mul (h : GcdInv m r g) (hu : 0 < g.u) (hv : 0 < g.v) :
    2 ∣ (gcdPass m r g).u * (gcdPass m r g).v ∧ (gcdPass m r g).u * (gcdPass m r g).v ≤ g.u * g.v ∧
      (2 ∣ g.u * g.v → 2 * ((gcdPass m r g).u * (gcdPass m r g).v) ≤ g.u * g.v) := by
  obtain ⟨hodd_u, hodd_v⟩ := halveBoth_odd h hu hv
  obtain ⟨heven, hle⟩ := gcdSubtract_mul hodd_u hodd_v
  have hdvd := halveBoth_mul_dvd m r g
  have hpos : 0 < g.u * g.v := Nat.mul_pos hu hv
  rw [gcdPass_eq]
  refine ⟨heven, hle.trans (Nat.le_of_dvd hpos hdvd), fun htwo => ?_⟩
  have hcoprime : Nat.Coprime 2 ((halveBoth m r g).u * (halveBoth m r g).v) :=
    ((Nat.odd_iff.mpr hodd_u).mul (Nat.odd_iff.mpr hodd_v)).coprime_two_left
  exact (Nat.mul_le_mul_left 2 hle).trans (Nat.le_of_dvd hpos (hcoprime.mul_dvd_of_dvd_of_dvd htwo hdvd))

/-- From an even product below `2^n`, `n` passes bring `u` to 0: each halves the product. -/
theorem gcdLoop_u_eq_zero_of_even (hodd : ¬ (r % 2 = 0 ∧ m % 2 = 0)) (n : Nat) (h : GcdInv m r g) (hv : 0 < g.v)
    (heven : 2 ∣ g.u * g.v) (hlt : g.u * g.v < 2 ^ n) : (gcdLoop m r n g).u = 0 := by
  induction n generalizing g with
  | zero =>
    have hzero : g.u * g.v = 0 := Nat.lt_one_iff.mp hlt
    exact (Nat.mul_eq_zero.mp hzero).resolve_right hv.ne'
  | succ n ih =>
    by_cases hu : g.u = 0
    · rw [gcdLoop_of_u_eq_zero _ hu, hu]
    · have hpos := Nat.pos_of_ne_zero hu
      obtain ⟨heven', _, hhalf⟩ := gcdPass_mul h hpos hv
      have hle := hhalf heven
      rw [gcdLoop_succ_of_ne _ hu]
      rw [pow_succ] at hlt
      exact ih (gcdPass_inv hodd h) (gcdPass_v_pos h hpos hv) heven' (by omega)

/-- The first pass makes the product even, which takes one pass more than its 512 bits (R154). -/
theorem gcdLoop_u_eq_zero (hodd : ¬ (r % 2 = 0 ∧ m % 2 = 0)) (h : GcdInv m r g) (hv : 0 < g.v) {n : Nat}
    (hn : 256 + 256 ≤ n) : (gcdLoop m r (n + 1) g).u = 0 := by
  by_cases hu : g.u = 0
  · rw [gcdLoop_of_u_eq_zero _ hu, hu]
  · have hpos := Nat.pos_of_ne_zero hu
    obtain ⟨heven, hle, _⟩ := gcdPass_mul h hpos hv
    have hlt : g.u * g.v < 2 ^ n :=
      calc g.u * g.v < 2 ^ 256 * 2 ^ 256 := Nat.mul_lt_mul'' h.u_lt h.v_lt
        _ = 2 ^ (256 + 256) := (pow_add ..).symm
        _ ≤ 2 ^ n := pow_le_pow_right₀ one_le_two hn
    rw [gcdLoop_succ_of_ne _ hu]
    exact gcdLoop_u_eq_zero_of_even hodd _ (gcdPass_inv hodd h) (gcdPass_v_pos h hpos hv) heven
      (hle.trans_lt hlt)

/-- Settles O50: every assignment group keeps the equations and the gcd, and every pass but the first halves `u * v`. -/
theorem inversionLoopKeepsBezoutAndTerminates : Obligations.InversionLoopKeepsBezoutAndTerminates := by
  unfold Obligations.InversionLoopKeepsBezoutAndTerminates
  intro m r hm hm' _ hr' hodd
  have hstart := gcdStart_inv hm' hr'
  refine ⟨fun n => ?_, gcdLoop_u_eq_zero hodd hstart hm (by omega)⟩
  have hinv := gcdLoop_inv hodd n hstart
  exact ⟨hinv.bezout, hinv.gcd_eq⟩

/-! ### The growth of the cofactors (R156) -/

/-- The cofactors of the row `u` are at most `C`; while `u` is even they may be above it by as much as the halving to come
takes back, for operands at most `W`. -/
def RowFits (W C : Int) (g : GcdState) : Prop :=
  |g.a| ≤ 2 * C - W ∧ |g.b| ≤ 2 * C - W ∧ (g.u % 2 = 1 → |g.a| ≤ C ∧ |g.b| ≤ C)

/-- Both rows fit; this is what holds between two passes. -/
def CofactorsFit (W C : Int) (g : GcdState) : Prop := RowFits W C g ∧ RowFits W C (swapRows g)

section Cofactors

variable {W C : Int}

theorem abs_asr1_le {x : Int} (hx : |x| ≤ 2 * C) : |asr1 x| ≤ C := by
  rw [abs_le] at hx ⊢
  rw [asr1]
  omega

/-- A halving adds at most `m` to `a` and takes at most `r` from `b` before it halves them. -/
theorem abs_halveUOnce_le (hm : m ≤ W) (hr : r ≤ W) (ha : |g.a| ≤ 2 * C - W) (hb : |g.b| ≤ 2 * C - W) :
    |(halveUOnce m r g).a| ≤ C ∧ |(halveUOnce m r g).b| ≤ C := by
  have hm' := abs_of_nonneg (Int.natCast_nonneg m)
  have hr' := abs_of_nonneg (Int.natCast_nonneg r)
  unfold halveUOnce
  split
  · have hadd := abs_add_le g.a m
    have hsub := abs_sub g.b r
    exact ⟨abs_asr1_le (by omega), abs_asr1_le (by omega)⟩
  · exact ⟨abs_asr1_le (by omega), abs_asr1_le (by omega)⟩

theorem halveUOnce_fits (hm : m ≤ W) (hr : r ≤ W) (hC : W ≤ C) (h : CofactorsFit W C g) :
    CofactorsFit W C (halveUOnce m r g) := by
  obtain ⟨⟨ha, hb, _⟩, hrowV⟩ := h
  obtain ⟨ha', hb'⟩ := abs_halveUOnce_le hm hr ha hb
  refine ⟨⟨by omega, by omega, fun _ => ⟨ha', hb'⟩⟩, ?_⟩
  simpa [RowFits, swapRows] using hrowV

theorem halveBoth_fits (hm : m ≤ W) (hr : r ≤ W) (hC : W ≤ C) (h : CofactorsFit W C g) :
    CofactorsFit W C (halveBoth m r g) :=
  halveBoth_induction (fun _ h => h.symm) (fun _ _ h => halveUOnce_fits hm hr hC h) h

/-- The difference of two rows that fit `C` is even, so it has a halving to come. -/
theorem subtractRowV_fits (hW : 0 ≤ W) (hC : W ≤ C) (hu : g.u % 2 = 1) (hv : g.v % 2 = 1) (hle : g.v ≤ g.u)
    (h : CofactorsFit W C g) : CofactorsFit W (C + W) (subtractRowV g) := by
  obtain ⟨⟨_, _, hrowU⟩, ⟨_, _, hrowV⟩⟩ := h
  obtain ⟨ha, hb⟩ := hrowU hu
  obtain ⟨hc, hd⟩ : |g.c| ≤ C ∧ |g.d| ≤ C := hrowV hv
  have hac := abs_sub g.a g.c
  have hbd := abs_sub g.b g.d
  simp only [CofactorsFit, RowFits, subtractRowV, swapRows]
  omega

theorem gcdPass_fits (hm : m ≤ W) (hr : r ≤ W) (hC : W ≤ C) (hinv : GcdInv m r g) (hu : 0 < g.u) (hv : 0 < g.v)
    (h : CofactorsFit W C g) : CofactorsFit W (C + W) (gcdPass m r g) := by
  obtain ⟨hu', hv'⟩ := halveBoth_odd hinv hu hv
  have hW : 0 ≤ W := (Int.natCast_nonneg m).trans hm
  rw [gcdPass_eq]
  exact gcdSubtract_induction (P := fun h => h.u % 2 = 1 ∧ h.v % 2 = 1 ∧ CofactorsFit W C h)
    (fun _ ⟨hu, hv, h⟩ => ⟨hv, hu, h.symm⟩) (fun _ h => h.symm)
    (fun _ hle ⟨hu, hv, h⟩ => subtractRowV_fits hW hC hu hv hle h) ⟨hu', hv', halveBoth_fits hm hr hC h⟩

theorem CofactorsFit.mono {D : Int} (hCD : C ≤ D) (h : CofactorsFit W C g) : CofactorsFit W D g := by
  simp only [CofactorsFit, RowFits] at h ⊢
  omega

/-- Each pass adds at most `W` to the cofactors. -/
theorem gcdLoop_fits (hodd : ¬ (r % 2 = 0 ∧ m % 2 = 0)) (hm : m ≤ W) (hr : r ≤ W) (n : Nat) (hC : W ≤ C)
    (hinv : GcdInv m r g) (hv : 0 < g.v) (h : CofactorsFit W C g) : CofactorsFit W (C + n * W) (gcdLoop m r n g) := by
  induction n generalizing g C with
  | zero => simpa [gcdLoop] using h
  | succ n ih =>
    have hW : 0 ≤ W := (Int.natCast_nonneg m).trans hm
    by_cases hu : g.u = 0
    · rw [gcdLoop_of_u_eq_zero _ hu]
      exact h.mono (le_add_of_nonneg_right (by positivity))
    · have hpos := Nat.pos_of_ne_zero hu
      rw [gcdLoop_succ_of_ne _ hu, show C + (n + 1 : Nat) * W = C + W + n * W by push_cast; ring]
      exact ih (by omega) (gcdPass_inv hodd hinv) (gcdPass_v_pos hinv hpos hv) (gcdPass_fits hm hr hC hinv hpos hv h)

theorem gcdStart_fits (hW : 1 ≤ W) : CofactorsFit W W (gcdStart m r) := by
  simp only [CofactorsFit, RowFits, gcdStart, swapRows, abs_zero, abs_one]
  omega

end Cofactors

/-- After 514 passes the loop changes nothing more. -/
theorem gcdLoop_eq_gcdLoop_min (hodd : ¬ (r % 2 = 0 ∧ m % 2 = 0)) (h : GcdInv m r g) (hv : 0 < g.v) (n : Nat) :
    gcdLoop m r n g = gcdLoop m r (min n 514) g := by
  obtain hle | hle := Nat.le_total n 514
  · rw [min_eq_left hle]
  · rw [min_eq_right hle]
    obtain ⟨k, rfl⟩ := Nat.exists_eq_add_of_le hle
    rw [gcdLoop_add, gcdLoop_of_u_eq_zero k (gcdLoop_u_eq_zero hodd h hv (by omega))]

/-- Settles O51: each pass adds at most `2^256` to the cofactors, and no pass after the 514th changes them. -/
theorem inversionCofactorsFitTheirWidth : Obligations.InversionCofactorsFitTheirWidth := by
  unfold Obligations.InversionCofactorsFitTheirWidth
  intro m r n hm hm' _ hr' hodd g
  have hstart := gcdStart_inv hm' hr'
  have hfits : CofactorsFit (2 ^ 256) (2 ^ 256 + (min n 514 : Nat) * 2 ^ 256) g := by
    rw [show g = _ from gcdLoop_eq_gcdLoop_min hodd hstart hm n]
    exact gcdLoop_fits hodd (by omega) (by omega) _ le_rfl hstart hm (gcdStart_fits (by omega))
  obtain ⟨⟨ha, hb, _⟩, ⟨hc, hd, _⟩⟩ := hfits
  simp only [swapRows, abs_le] at ha hb hc hd
  have hn : min n 514 ≤ 514 := min_le_right n 514
  omega

/-! ### The normalisation loops (R150, R155) -/

theorem addWhileNegative_modEq (n : Nat) (c : Int) : addWhileNegative m n c ≡ c [ZMOD m] := by
  induction n generalizing c with
  | zero => rfl
  | succ n ih =>
    rw [addWhileNegative]
    split
    · exact (ih (c + m)).trans (by simp [Int.ModEq])
    · rfl

theorem subtractWhileWide_modEq (n : Nat) (c : Int) : subtractWhileWide m n c ≡ c [ZMOD m] := by
  induction n generalizing c with
  | zero => rfl
  | succ n ih =>
    rw [subtractWhileWide]
    split
    · exact (ih (c - m)).trans (by simp [Int.ModEq])
    · rfl

theorem addWhileNegative_nonneg (n : Nat) (c : Int) (hc : 0 ≤ c + n * m) : 0 ≤ addWhileNegative m n c := by
  induction n generalizing c with
  | zero => simpa [addWhileNegative] using hc
  | succ n ih =>
    rw [addWhileNegative]
    split
    · exact ih (c + m) (by push_cast at hc; linarith)
    next hneg => exact Int.not_lt.mp hneg

theorem subtractWhileWide_range (hm : m < 2 ^ 256) (n : Nat) (c : Int) (hpos : 0 ≤ c) (hc : c < 2 ^ 256 + n * m) :
    0 ≤ subtractWhileWide m n c ∧ subtractWhileWide m n c < 2 ^ 256 := by
  induction n generalizing c with
  | zero => exact ⟨hpos, by simpa [subtractWhileWide] using hc⟩
  | succ n ih =>
    rw [subtractWhileWide]
    split
    next hwide => exact ih (c - m) (by omega) (by push_cast at hc; linarith)
    next hfits => exact ⟨hpos, Int.not_le.mp hfits⟩

/-- The bound of either loop covers `|c|`. -/
theorem natAbs_lt_passes_mul (hm : 0 < m) (c : Int) : (c.natAbs : Int) < (c.natAbs / m + 1 : Nat) * m := by
  exact_mod_cast Nat.lt_mul_of_div_lt (Nat.lt_succ_self _) hm

theorem normalise_modEq (m : Nat) (c : Int) : normalise m c ≡ c [ZMOD m] :=
  (subtractWhileWide_modEq _ _).trans (addWhileNegative_modEq _ _)

theorem normalise_range (hpos : 0 < m) (hm : m < 2 ^ 256) (c : Int) : 0 ≤ normalise m c ∧ normalise m c < 2 ^ 256 := by
  have hc := natAbs_lt_passes_mul hpos c
  have hnonneg := addWhileNegative_nonneg (m := m) (c.natAbs / m + 1) c (by omega)
  have hwide := natAbs_lt_passes_mul hpos (addWhileNegative m (c.natAbs / m + 1) c)
  exact subtractWhileWide_range hm _ _ hnonneg (by omega)

/-! ### The result (R155) -/

/-- The pre-check of R150 answers failure only where the gcd is not 1 (R155). -/
theorem gcd_ne_one_of_precheck (hm : 1 < m) (h : r = 0 ∨ m = 0 ∨ (r % 2 = 0 ∧ m % 2 = 0)) : Nat.gcd r m ≠ 1 := by
  obtain rfl | rfl | ⟨hr, hm'⟩ := h
  · rw [Nat.gcd_zero_left]
    exact hm.ne'
  · omega
  · exact Nat.not_coprime_of_dvd_of_dvd one_lt_two (Nat.dvd_of_mod_eq_zero hr) (Nat.dvd_of_mod_eq_zero hm')

/-- The loop ends with the gcd in `v` (R152). -/
theorem gcdLoop_v_eq_gcd (hodd : ¬ (r % 2 = 0 ∧ m % 2 = 0)) (hpos : 0 < m) (hm : m < 2 ^ 256) (hr : r < 2 ^ 256) :
    (gcdLoop m r 514 (gcdStart m r)).v = Nat.gcd r m := by
  have hstart := gcdStart_inv hm hr
  rw [← (gcdLoop_inv hodd 514 hstart).gcd_eq, gcdLoop_u_eq_zero hodd hstart hpos (by omega), Nat.gcd_zero_left]

theorem one_lt_modulus (hslot : slot.Valid) : 1 < slot.m.toNat := Nat.lt_of_lt_of_le (by norm_num) hslot.1

/-- R155: `inv256` tests the gcd, and answers the normalised cofactor of `r` where the gcd is 1. -/
theorem inv256_eq_ite (hslot : slot.Valid) (r : W256) :
    inv256 slot r =
      if Nat.gcd r.toNat slot.m.toNat = 1 then
        (BitVec.ofInt 256
          (normalise slot.m.toNat (gcdLoop slot.m.toNat r.toNat 514 (gcdStart slot.m.toNat r.toNat)).c), true)
      else (0, false) := by
  have hm := one_lt_modulus hslot
  rw [inv256]
  split
  next hfails => rw [if_neg (gcd_ne_one_of_precheck hm hfails)]
  next hpasses =>
    dsimp only
    rw [gcdLoop_v_eq_gcd (fun h => hpasses (.inr (.inr h))) (Nat.zero_lt_of_lt hm) slot.m.isLt r.isLt]

/-- The cofactor of `r` in the row of the gcd, when that is 1, is the inverse of `r` (R152). -/
theorem gcdLoop_c_mul_modEq_one (hm : 1 < m) (hm' : m < 2 ^ 256) (hr : r < 2 ^ 256) (hgcd : Nat.gcd r m = 1) :
    (gcdLoop m r 514 (gcdStart m r)).c * r ≡ 1 [ZMOD m] := by
  have hodd : ¬ (r % 2 = 0 ∧ m % 2 = 0) := fun h => gcd_ne_one_of_precheck hm (.inr (.inr h)) hgcd
  have hrow := (gcdLoop_inv hodd 514 (gcdStart_inv hm' hr)).bezout.2
  rw [gcdLoop_v_eq_gcd hodd (Nat.zero_lt_of_lt hm) hm' hr, hgcd, Nat.cast_one] at hrow
  exact Int.modEq_iff_dvd.mpr (Dvd.intro_left _ (eq_sub_of_add_eq' hrow))

/-- The normalised value fits the 256 bits of a register. -/
theorem toNat_ofInt_normalise (hpos : 0 < m) (hm : m < 2 ^ 256) (c : Int) :
    ((BitVec.ofInt 256 (normalise m c)).toNat : Int) = normalise m c := by
  obtain ⟨hnonneg, hlt⟩ := normalise_range hpos hm c
  rw [BitVec.toNat_ofInt, Int.toNat_of_nonneg (Int.emod_nonneg _ (by norm_num))]
  exact Int.emod_eq_of_lt hnonneg (by exact_mod_cast hlt)

theorem inv256_success_iff (hslot : slot.Valid) (r : W256) :
    (inv256 slot r).2 = true ↔ Nat.gcd r.toNat slot.m.toNat = 1 := by
  rw [inv256_eq_ite hslot]
  split <;> simp [*]

theorem inv256_mul_modEq_one (hslot : slot.Valid) {r : W256} (hgcd : Nat.gcd r.toNat slot.m.toNat = 1) :
    (inv256 slot r).1.toNat * r.toNat ≡ 1 [MOD slot.m.toNat] := by
  have hm := one_lt_modulus hslot
  rw [inv256_eq_ite hslot, if_pos hgcd, ← Int.natCast_modEq_iff, Nat.cast_mul,
    toNat_ofInt_normalise (Nat.zero_lt_of_lt hm) slot.m.isLt]
  exact ((normalise_modEq _ _).mul_right _).trans (gcdLoop_c_mul_modEq_one hm slot.m.isLt r.isLt hgcd)

theorem inv256_value_of_failure (hslot : slot.Valid) {r : W256} (hfail : (inv256 slot r).2 = false) :
    (inv256 slot r).1 = 0 := by
  have hgcd : Nat.gcd r.toNat slot.m.toNat ≠ 1 := by simp [← inv256_success_iff hslot, hfail]
  rw [inv256_eq_ite hslot, if_neg hgcd]

/-- Settles O49: the loop ends with the gcd and, where that is 1, with the inverse; the gcd with `m` depends on the class only. -/
theorem inversionIsCorrect : Obligations.InversionIsCorrect := by
  unfold Obligations.InversionIsCorrect
  intro slot r r' hslot
  refine ⟨inv256_success_iff hslot r, fun hok => inv256_mul_modEq_one hslot ((inv256_success_iff hslot r).mp hok),
    inv256_value_of_failure hslot, fun hclass => ?_⟩
  rw [Bool.eq_iff_iff, inv256_success_iff hslot, inv256_success_iff hslot, hclass.gcd_eq]

/-! ### The command (R151) -/

/-- Settles O48: the reads succeed, and both results of `inv256` are stored whatever its success. -/
theorem invStoresTheValueAndTheSuccessFlag : Obligations.InvStoresTheValueAndTheSuccessFlag := by
  unfold Obligations.InvStoresTheValueAndTheSuccessFlag
  intro rd s z slot hz hslot
  exact finish_eq_next.mpr (.inl ⟨_, unaryReads_eq_ok.mpr ⟨z, slot, hz, hslot, rfl⟩, rfl⟩)

end Sys2Proof.Proofs

/-! PROOF. Exponentiation (`spec/45_exponentiation.md`): the window indices of an exponent (R160, R161), what a
scan computes (R163, R168), the powers of `exp256` and `expp256` (R165, R168, R170), and the commands (R164, R167, R169). -/

namespace Sys2Proof.Proofs

open Sys2Proof Sys2Proof.Machine Sys2Proof.Claims

variable {s : State} {slot : Modulus}

/-! ### The window indices of an exponent (R160, R161) -/

/-- Each number at its power of two; the scans take their window weights in this form. -/
def weightedSum (w : Nat → Nat) (n : Nat) : Nat := ((List.range n).map fun b => w b * 2 ^ b).sum

theorem weightedSum_zero (w : Nat → Nat) : weightedSum w 0 = 0 := rfl

theorem weightedSum_succ (w : Nat → Nat) (n : Nat) : weightedSum w (n + 1) = weightedSum w n + w n * 2 ^ n :=
  List.sum_range_succ _ n

theorem weightedSum_add_mul (v w : Nat → Nat) (c n : Nat) :
    weightedSum (fun b => v b + w b * c) n = weightedSum v n + weightedSum w n * c := by
  induction n with
  | zero => simp only [weightedSum_zero, Nat.zero_mul, Nat.add_zero]
  | succ n ih =>
    simp only [weightedSum_succ, ih]
    ring

/-- The upper positions of a sum, moved down, are the upper part of its value. -/
theorem weightedSum_shift (w : Nat → Nat) (k n : Nat) :
    weightedSum w (n + k) = weightedSum w k + weightedSum (fun b => w (b + k)) n * 2 ^ k := by
  induction n with
  | zero => rw [Nat.zero_add, weightedSum_zero, Nat.zero_mul, Nat.add_zero]
  | succ n ih =>
    rw [Nat.succ_add, weightedSum_succ, weightedSum_succ, ih]
    ring

/-- The bits of a number below position `n` are its value modulo `2^n`. -/
theorem weightedSum_testBit (v n : Nat) : weightedSum (fun b => (v.testBit b).toNat) n = v % 2 ^ n := by
  induction n with
  | zero => rw [weightedSum_zero, Nat.pow_zero, Nat.mod_one]
  | succ n ih => rw [weightedSum_succ, ih, Nat.toNat_testBit, Nat.mod_pow_succ, Nat.mul_comm]

theorem weightedSum_getLsbD (x : W64) : weightedSum (fun b => (x.getLsbD b).toNat) 64 = x.toNat := by
  simp only [BitVec.getLsbD]
  rw [weightedSum_testBit, Nat.mod_eq_of_lt x.isLt]

/-- The weight of an index given by its four bits (R161). -/
theorem windowWeight_ofBits : ∀ b3 b2 b1 b0 : Bool,
    windowWeight (b3.toNat * 8 + b2.toNat * 4 + b1.toNat * 2 + b0.toNat) =
      b0.toNat + b1.toNat * 2 ^ 64 + b2.toNat * 2 ^ 128 + b3.toNat * 2 ^ 192 := by
  decide

/-- Each limb gives its bit to the weight of the window, at the place of the limb (R160, R161). -/
theorem windowWeight_win (y : W256) (b : Nat) :
    windowWeight (win y b) = ((wordOf y 0).getLsbD b).toNat + ((wordOf y 1).getLsbD b).toNat * 2 ^ 64 +
      ((wordOf y 2).getLsbD b).toNat * 2 ^ 128 + ((wordOf y 3).getLsbD b).toNat * 2 ^ 192 :=
  windowWeight_ofBits _ _ _ _

theorem win_lt (y : W256) (b : Nat) : win y b < 16 := by
  have h0 := Bool.toNat_le ((wordOf y 0).getLsbD b)
  have h1 := Bool.toNat_le ((wordOf y 1).getLsbD b)
  have h2 := Bool.toNat_le ((wordOf y 2).getLsbD b)
  have h3 := Bool.toNat_le ((wordOf y 3).getLsbD b)
  rw [win]
  omega

/-- The four streams of bits, each at its limb, are the exponent (R161). -/
theorem weightedSum_windowWeight (y : W256) : weightedSum (fun b => windowWeight (win y b)) 64 = y.toNat := by
  simp only [windowWeight_win, weightedSum_add_mul, weightedSum_getLsbD]
  rw [← sum_wordOf_mul_pow y, sum_map_range_four]
  ring

/-- Settles O53: the sum over positions is that of the four limbs, each the sum of its bits. -/
theorem windowsAddUpToTheExponent : Obligations.WindowsAddUpToTheExponent := by
  unfold Obligations.WindowsAddUpToTheExponent
  intro y
  exact ⟨(weightedSum_windowWeight y).symm, win_lt y⟩

/-! ### Table entries (R161, R162) -/

section Scan

variable {x : Nat} {t l h : List W256}

theorem tableEntry_modEq {m j : Nat} (ht : HoldsPowers m x t) (hj : j < t.length) :
    (tableEntry t j).toNat ≡ x ^ windowWeight j [MOD m] := by
  rw [tableEntry, List.getD_eq_getElem t 0 hj]
  exact ht j _ (List.getElem?_eq_getElem hj)

/-- A table doubled by its next anchor is the table of one more index bit (R162). -/
theorem extendTable_spec {n : Nat} {r : W256} (hslot : slot.Valid) (hn : n < 4)
    (hr : r.toNat ≡ x ^ 2 ^ (64 * n) [MOD slot.m.toNat]) (ht : t.length = 2 ^ n ∧ HoldsPowers slot.m.toNat x t) :
    (extendTable slot t r).length = 2 ^ (n + 1) ∧ HoldsPowers slot.m.toNat x (extendTable slot t r) := by
  obtain ⟨hlen, hpowers⟩ := ht
  have hne : t ≠ [] := List.ne_nil_of_length_pos (by rw [hlen]; positivity)
  exact ⟨by rw [extendTable_length _ _ _ hne, hlen, ← pow_succ'], extendTable_holdsPowers hslot hn hlen hr hpowers⟩

/-- The table of `EXP` is whole: three doublings of `[1, z]`, by anchors 64 squarings apart (R162). -/
theorem powerTable_spec (hslot : slot.Valid) (z : W256) :
    (powerTable slot z 64).length = 16 ∧ HoldsPowers slot.m.toNat z.toNat (powerTable slot z 64) := by
  have hr2 := squarings_modEq hslot 64 z
  have hr4 := squarings_modEq_of_modEq (k := 64) hslot hr2
  have hr8 := squarings_modEq_of_modEq (k := 64) hslot hr4
  have ht2 := extendTable_spec (n := 1) hslot (by omega) hr2 ⟨rfl, holdsPowers_start (Nat.ModEq.refl _)⟩
  have ht4 := extendTable_spec hslot (by omega) hr4 ht2
  exact extendTable_spec hslot (by omega) hr8 ht4

/-! ### The scans (R163, R168) -/

section Turns

variable {m : Nat} {scan turn : Nat → W256 → W256} {w : Nat → Nat} (hzero : ∀ acc, scan 0 acc = acc)
  (hsucc : ∀ b acc, scan (b + 1) acc = scan b (turn b acc))
  (hturn : ∀ b acc, (turn b acc).toNat ≡ acc.toNat ^ 2 * x ^ w b [MOD m])

include hzero hsucc hturn

/-- A scan whose turn at position `b` squares and multiplies by `x ^ w b`, from any accumulator. -/
theorem scan_modEq (n : Nat) (acc : W256) :
    (scan n acc).toNat ≡ acc.toNat ^ 2 ^ n * x ^ weightedSum w n [MOD m] := by
  induction n generalizing acc with
  | zero => rw [hzero, weightedSum_zero, pow_zero, pow_one, pow_zero, Nat.mul_one]
  | succ n ih =>
    rw [hsucc]
    calc (scan n (turn n acc)).toNat
        ≡ (turn n acc).toNat ^ 2 ^ n * x ^ weightedSum w n [MOD m] := ih _
      _ ≡ (acc.toNat ^ 2 * x ^ w n) ^ 2 ^ n * x ^ weightedSum w n [MOD m] := ((hturn n acc).pow _).mul_right _
      _ = acc.toNat ^ 2 ^ (n + 1) * x ^ weightedSum w (n + 1) := by rw [weightedSum_succ]; ring

/-- A whole scan: it starts from the factor of the top position. -/
theorem scan_modEq_of_start {n : Nat} {acc : W256} (hacc : acc.toNat ≡ x ^ w n [MOD m]) :
    (scan n acc).toNat ≡ x ^ weightedSum w (n + 1) [MOD m] := by
  calc (scan n acc).toNat
      ≡ acc.toNat ^ 2 ^ n * x ^ weightedSum w n [MOD m] := scan_modEq hzero hsucc hturn n acc
    _ ≡ (x ^ w n) ^ 2 ^ n * x ^ weightedSum w n [MOD m] := (hacc.pow _).mul_right _
    _ = x ^ weightedSum w (n + 1) := by rw [weightedSum_succ]; ring

end Turns

theorem expScan_zero (slot : Modulus) (t : List W256) (y acc : W256) : expScan slot t y 0 acc = acc := rfl

/-- Proved with a variable for `mulmod slot`, as `squarings_succ` is with one for `sqrmod slot`. -/
theorem expScan_succ (slot : Modulus) (t : List W256) (y : W256) (b : Nat) (acc : W256) :
    expScan slot t y (b + 1) acc = expScan slot t y b (mulmod slot (sqrmod slot acc) (tableEntry t (win y b))) := by
  delta expScan expScan._f
  generalize mulmod slot = f
  rfl

/-- R163: the scan over a whole table computes the power. -/
theorem expScan_modEq (hslot : slot.Valid) (hlen : t.length = 16) (ht : HoldsPowers slot.m.toNat x t) (y : W256) :
    (expScan slot t y 63 (tableEntry t (win y 63))).toNat ≡ x ^ y.toNat [MOD slot.m.toNat] := by
  have hentry (b : Nat) : (tableEntry t (win y b)).toNat ≡ x ^ windowWeight (win y b) [MOD slot.m.toNat] :=
    tableEntry_modEq ht (hlen ▸ win_lt y b)
  rw [← weightedSum_windowWeight y]
  refine scan_modEq_of_start (scan := expScan slot t y) (w := fun b => windowWeight (win y b))
    (expScan_zero slot t y) (expScan_succ slot t y) (fun b acc => ?_) (hentry 63)
  exact (mulmod_modEq hslot _ _).trans ((sqrmod_modEq hslot acc).mul (hentry b))

theorem exp256_modEq (hslot : slot.Valid) (z y : W256) :
    (exp256 slot z y).toNat ≡ z.toNat ^ y.toNat [MOD slot.m.toNat] := by
  obtain ⟨hlen, hpowers⟩ := powerTable_spec hslot z
  exact expScan_modEq hslot hlen hpowers y

/-- Fermat's little theorem, for every residue. -/
theorem pow_prime_modEq {p : Nat} (hp : p.Prime) (a : Nat) : a ^ p ≡ a [MOD p] := by
  have := Fact.mk hp
  rw [← ZMod.natCast_eq_natCast_iff, Nat.cast_pow, ZMod.pow_card]

/-- Settles O54: the scan takes each window's weight at its position, and these add up to the exponent; Fermat for a prime. -/
theorem expComputesThePower : Obligations.ExpComputesThePower := by
  unfold Obligations.ExpComputesThePower
  intro slot z y hslot
  exact ⟨exp256_modEq hslot z y, fun hp => (exp256_modEq hslot z slot.m).trans (pow_prime_modEq hp _)⟩

theorem exppScan_zero (slot : Modulus) (l h : List W256) (y acc : W256) : exppScan slot l h y 0 acc = acc := rfl

/-- Proved as `expScan_succ` is. -/
theorem exppScan_succ (slot : Modulus) (l h : List W256) (y : W256) (b : Nat) (acc : W256) :
    exppScan slot l h y (b + 1) acc =
      exppScan slot l h y b
        (mulmod slot (mulmod slot (sqrmod slot acc) (tableEntry h (win y (b + 32)))) (tableEntry l (win y b))) := by
  delta exppScan exppScan._f
  generalize mulmod slot = f
  rfl

/-- The streams of the two tables: the low one in place, the high one 32 positions up (R168). -/
theorem weightedSum_streams (w : Nat → Nat) :
    weightedSum (fun b => w b + w (b + 32) * 2 ^ 32) 32 = weightedSum w 64 := by
  rw [weightedSum_add_mul, ← weightedSum_shift w 32 32]

/-- R168: the scan over two whole tables computes the power. -/
theorem expp256_modEq (hslot : slot.Valid) (hl : l.length = 16) (hh : h.length = 16)
    (hlow : HoldsPowers slot.m.toNat x l) (hhigh : HoldsPowers slot.m.toNat (x ^ 2 ^ 32) h) (y : W256) :
    (expp256 slot l h y).toNat ≡ x ^ y.toNat [MOD slot.m.toNat] := by
  have hentryl (b : Nat) : (tableEntry l (win y b)).toNat ≡ x ^ windowWeight (win y b) [MOD slot.m.toNat] :=
    tableEntry_modEq hlow (hl ▸ win_lt y b)
  have hentryh (b : Nat) :
      (tableEntry h (win y b)).toNat ≡ x ^ (windowWeight (win y b) * 2 ^ 32) [MOD slot.m.toNat] := by
    rw [Nat.mul_comm, pow_mul]
    exact tableEntry_modEq hhigh (hh ▸ win_lt y b)
  rw [← weightedSum_windowWeight y, ← weightedSum_streams]
  refine scan_modEq_of_start (scan := exppScan slot l h y)
    (w := fun b => windowWeight (win y b) + windowWeight (win y (b + 32)) * 2 ^ 32)
    (exppScan_zero slot l h y) (exppScan_succ slot l h y) (fun b acc => ?_) ?_
  · rw [Nat.add_comm (windowWeight _), pow_add, ← Nat.mul_assoc]
    exact (mulmod_modEq hslot _ _).trans
      (((mulmod_modEq hslot _ _).trans ((sqrmod_modEq hslot acc).mul (hentryh _))).mul (hentryl b))
  · rw [Nat.add_comm (windowWeight _), pow_add]
    exact (mulmod_modEq hslot _ _).trans ((hentryh 63).mul (hentryl 31))

end Scan

/-- The tables that `EXPB` builds are whole, so the scan over them computes the power of the base (R166, R168). -/
theorem expp256_newBase_modEq (hslot : slot.Valid) (x : Residue) (y : W256) :
    (expp256 slot (newBase slot x).l.toList (newBase slot x).h.toList y).toNat ≡ x.r.toNat ^ y.toNat [MOD slot.m.toNat] :=
  have hbuilt := expbase_builtTo hslot x.r
  expp256_modEq hslot hbuilt.l_length hbuilt.h_length hbuilt.l_powers hbuilt.h_powers y

/-- Raw values of one class have one canonical form (R111). -/
theorem reduce4_eq_of_modEq (hslot : slot.Valid) {a b : W256} (hab : a.toNat ≡ b.toNat [MOD slot.m.toNat]) :
    reduce4 slot a = reduce4 slot b := by
  rw [reduce4_eq_canon hslot, reduce4_eq_canon hslot, canon, hab, canon]

/-- Settles O55: both scans answer the class of the same power. -/
theorem exppOverNewTablesComputesThePower : Obligations.ExppOverNewTablesComputesThePower := by
  unfold Obligations.ExppOverNewTablesComputesThePower
  intro slot x y hslot
  have hpower := expp256_newBase_modEq hslot x y
  exact ⟨hpower, reduce4_eq_of_modEq hslot (hpower.trans (exp256_modEq hslot x.r y).symm)⟩

/-! ### The commands (R164, R167, R169) -/

/-- EXPB with its indices in range and a valid source completes with the new base in its slot, valid before or not (R167). -/
theorem execExpb_eq_next {es : SlotIx} {rs : RegIx} {x : Residue} (hes : es.toNat < s.E.length) (hx : s.regIs rs x)
    (hslot : s.modulusIs x.tag slot) :
    execExpb es rs s = .next (completed { s with E := s.E.set es.toNat (some (newBase slot x)) } 0) := by
  rw [execExpb, needBase_eq_ok.mpr hes, needReg_eq_ok.mpr (regIs_lt hx), readReg_eq_ok.mpr hx, ok_bind, ok_bind, ok_bind,
    readModulus_eq_ok.mpr hslot]
  rfl

/-- EXPP with its destination in range and a valid base completes with the scan's value under the base's tag (R169). -/
theorem execExpp_eq_next {rd : RegIx} {es : SlotIx} {b : ExpBase} (hrd : rd.toNat < s.R.length) (hb : s.baseIs es b)
    (hslot : s.modulusIs b.tag slot) :
    execExpp rd es s = .next (completed (withReg s rd b.tag (expp256 slot b.l.toList b.h.toList s.din4)) 0) := by
  rw [execExpp, needReg_eq_ok.mpr hrd, needBase_eq_ok.mpr (baseIs_lt hb), readBase_eq_ok.mpr hb, ok_bind, ok_bind, ok_bind,
    readModulus_eq_ok.mpr hslot]
  rfl

/-- Settles O52: the checks pass, and each command stores what its function answers. -/
theorem exponentiationCommandsStoreTheirFunctions : Obligations.ExponentiationCommandsStoreTheirFunctions := by
  unfold Obligations.ExponentiationCommandsStoreTheirFunctions
  simp only [ofNat_din4]
  exact ⟨fun _ s _ _ hz hslot => finish_unary hz hslot (fun z slot => exp256 slot z.r s.din4) fun _ _ => doutNone,
    fun _ _ _ _ _ hes hx hslot => execExpb_eq_next hes hx hslot,
    fun _ _ _ _ _ hrd hb hslot => execExpp_eq_next hrd hb hslot⟩

end Sys2Proof.Proofs

/-! PROOF. Comparison (`spec/46_compare.md`): the flag decides equality of classes (R182), and what EQ and NEQ leave with equal and
with different modulus words (R180, R181). -/

namespace Sys2Proof.Proofs

open Sys2Proof Sys2Proof.Machine Sys2Proof.Claims

/-- R182: canonical forms over slots that hold the same modulus are equal exactly when the raw values are of one class. -/
theorem canon_eq_canon_iff {mz mx : Modulus} (hm : mz.m = mx.m) (z x : W256) :
    canon mz z = canon mx x ↔ z.toNat ≡ x.toNat [MOD mz.m.toNat] := by
  rw [← BitVec.toNat_inj, toNat_canon, toNat_canon, ← hm, Nat.ModEq]

/-- The flag that `EQ` computes from canonical values decides equality of classes (R182). -/
theorem eqFlag_canon {mz mx : Modulus} (hm : mz.m = mx.m) (z x : W256) :
    eqFlag (canon mz z) (canon mx x) = decide (z.toNat ≡ x.toNat [MOD mz.m.toNat]) :=
  decide_eq_decide.mpr (canon_eq_canon_iff hm z x)

section Compare

variable {s : State} {rd rs : RegIx} {z x : Residue} {mz mx : Modulus}

/-- With different modulus words the answer is "not equal", and only `FLAG` is written (R180, R181). -/
theorem compareRegs_of_ne (hz : s.regIs rd z) (hx : s.regIs rs x) (hmz : s.modulusIs z.tag mz) (hmx : s.modulusIs x.tag mx)
    (hm : mz.m ≠ mx.m) (answer : Bool → Bool) :
    compareRegs rd rs answer s = .next (completed (withFlag s (answer false)) 0) := by
  rw [compareRegs, binaryReads_bind hz hx hmz hmx, if_pos hm]
  rfl

/-- With equal modulus words both registers are canonicalised, and `FLAG` is the answer to equality of classes (R180 to R182). -/
theorem compareRegs_of_eq (hz : s.regIs rd z) (hx : s.regIs rs x) (hmz : s.modulusIs z.tag mz) (hmx : s.modulusIs x.tag mx)
    (hvz : mz.Valid) (hvx : mx.Valid) (hm : mz.m = mx.m) (answer : Bool → Bool) :
    compareRegs rd rs answer s =
      .next (completed (withFlag (withReg (withReg s rd z.tag (canon mz z.r)) rs x.tag (canon mx x.r))
        (answer (decide (z.r.toNat ≡ x.r.toNat [MOD mz.m.toNat])))) 0) := by
  rw [compareRegs, binaryReads_bind hz hx hmz hmx, if_neg (not_not_intro hm), reduce4_eq_canon hvz, reduce4_eq_canon hvx,
    ← eqFlag_canon hm]
  rfl

end Compare

/-- Settles O47: `EQ` and `NEQ` are one comparison, which answers with the flag and with its complement. -/
theorem compareDecidesEqualityOfClasses : Obligations.CompareDecidesEqualityOfClasses := by
  unfold Obligations.CompareDecidesEqualityOfClasses
  intro rd rs s z x mz mx hz hx hmz hmx hvz hvx
  exact ⟨fun hm => ⟨compareRegs_of_eq hz hx hmz hmx hvz hvx hm id, compareRegs_of_eq hz hx hmz hmx hvz hvx hm neqFlag⟩,
    fun hm => ⟨compareRegs_of_ne hz hx hmz hmx hm id, compareRegs_of_ne hz hx hmz hmx hm neqFlag⟩⟩

end Sys2Proof.Proofs

/-! PROOF. Transfer and system commands (`spec/47_transfer_system.md`): the classes of raw values as elements of `ZMod m`, the ring
laws under canonicalisation (R191), NOP and CLRERR (R197, R198), RSET and RCOPY (R187, R189). -/

namespace Sys2Proof.Proofs

open Sys2Proof Sys2Proof.Machine Sys2Proof.Claims

variable {s : State} {slot : Modulus}

/-! ### The class of a raw value -/

/-- The class of a raw value, as an element of the ring modulo the slot's `m` (R25). -/
def residueClass (slot : Modulus) (r : W256) : ZMod slot.m.toNat := (r.toNat : ZMod slot.m.toNat)

theorem residueClass_eq_iff {a b : W256} :
    residueClass slot a = residueClass slot b ↔ a.toNat ≡ b.toNat [MOD slot.m.toNat] :=
  ZMod.natCast_eq_natCast_iff _ _ _

theorem residueClass_zero (slot : Modulus) : residueClass slot 0 = 0 := Nat.cast_zero

theorem residueClass_one (slot : Modulus) : residueClass slot 1 = 1 := Nat.cast_one

theorem residueClass_modulus (slot : Modulus) : residueClass slot slot.m = 0 := ZMod.natCast_self _

theorem residueClass_add256 (hslot : slot.Valid) (z x : W256) :
    residueClass slot (add256 slot z x) = residueClass slot z + residueClass slot x := by
  rw [residueClass, (ZMod.natCast_eq_natCast_iff _ _ _).mpr (add256_modEq hslot z x), Nat.cast_add]
  rfl

theorem residueClass_sub256 (hslot : slot.Valid) (z x : W256) :
    residueClass slot (sub256 slot z x) = residueClass slot z - residueClass slot x := by
  have hclass := (ZMod.intCast_eq_intCast_iff _ _ _).mpr (sub256_modEq hslot z x)
  rwa [Int.cast_sub, Int.cast_natCast, Int.cast_natCast, Int.cast_natCast] at hclass

theorem residueClass_neg256 (hslot : slot.Valid) (z : W256) :
    residueClass slot (neg256 slot z) = -residueClass slot z := by
  have hclass := (ZMod.intCast_eq_intCast_iff _ _ _).mpr (neg256_modEq hslot z)
  rwa [Int.cast_neg, Int.cast_natCast, Int.cast_natCast] at hclass

theorem residueClass_mulmod (hslot : slot.Valid) (a b : W256) :
    residueClass slot (mulmod slot a b) = residueClass slot a * residueClass slot b := by
  rw [residueClass, (ZMod.natCast_eq_natCast_iff _ _ _).mpr (mulmod_modEq hslot a b), Nat.cast_mul]
  rfl

theorem reduce4_eq_of_class (hslot : slot.Valid) {a b : W256} (hab : residueClass slot a = residueClass slot b) :
    reduce4 slot a = reduce4 slot b :=
  reduce4_eq_of_modEq hslot (residueClass_eq_iff.mp hab)

theorem reduce4_eq_zero_of_class (hslot : slot.Valid) {a : W256} (ha : residueClass slot a = 0) : reduce4 slot a = 0 := by
  rw [reduce4_eq_of_class hslot (ha.trans (residueClass_zero slot).symm), reduce4_eq_canon hslot]
  apply BitVec.eq_of_toNat_eq
  rw [toNat_canon]
  exact Nat.zero_mod _

/-- Settles O46: the classes are elements of a ring, and the operations of the block are those of the ring. -/
theorem ringLawsHoldUnderCanonicalisation : Obligations.RingLawsHoldUnderCanonicalisation := by
  unfold Obligations.RingLawsHoldUnderCanonicalisation
  intro slot a b c hslot
  have hadd := residueClass_add256 hslot
  have hsub := residueClass_sub256 hslot
  have hneg := residueClass_neg256 hslot
  have hmul := residueClass_mulmod hslot
  have hclass {a b : W256} := reduce4_eq_of_class hslot (a := a) (b := b)
  refine ⟨hclass ?addComm, hclass ?addAssoc, hclass ?mulAssoc, hclass ?mulAdd, hclass ?addModulus,
    reduce4_eq_zero_of_class hslot ?addNeg, hclass ?negNeg, hclass ?subSwap, hclass ?mulOne⟩
  case addComm => rw [hadd, hadd, add_comm]
  case addAssoc => simp only [hadd, add_assoc]
  case mulAssoc => simp only [hmul, mul_assoc]
  case mulAdd => simp only [hmul, hadd, mul_add]
  case addModulus => rw [hadd, residueClass_modulus, add_zero]
  case addNeg => rw [hadd, hneg, add_neg_cancel]
  case negNeg => rw [hneg, hneg, neg_neg]
  case subSwap => rw [hneg, hsub, hsub, neg_sub]
  case mulOne => rw [hmul, residueClass_one, mul_one]

/-! ### NOP and CLRERR (R197, R198) -/

/-- Settles O27: both commands end without a check, NOP with the state it found and CLRERR with the record cleared. -/
theorem systemCommandsTouchOnlyTheRecord : Obligations.SystemCommandsTouchOnlyTheRecord := by
  unfold Obligations.SystemCommandsTouchOnlyTheRecord
  exact ⟨by decide, by decide, fun s => ⟨finish_ok (s := s), finish_ok (s := s)⟩⟩

/-! ### RSET and RCOPY (R187, R189) -/

/-- RCOPY with its destination in range and a valid source completes with the source's tag and raw words (R189). -/
theorem execRcopy_eq_next {rd rs : RegIx} {x : Residue} (hrd : rd.toNat < s.R.length) (hx : s.regIs rs x) :
    execRcopy rd rs s = .next (completed (withReg s rd x.tag x.r) 0) := by
  rw [execRcopy, needReg_eq_ok.mpr hrd, needReg_eq_ok.mpr (regIs_lt hx), readReg_eq_ok.mpr hx]
  rfl

/-- A register written with what it holds. -/
theorem withReg_self {rd : RegIx} {x : Residue} (hx : s.regIs rd x) : withReg s rd x.tag x.r = s := by
  obtain ⟨hrd, hvalue⟩ := List.getElem?_eq_some_iff.mp hx
  rw [withReg, ← hvalue, List.set_getElem_self]

/-- RCOPY of a valid register to itself changes nothing (R189, R236). -/
theorem execRcopy_self {rd : RegIx} {x : Residue} (hx : s.regIs rd x) : execRcopy rd rd s = .next (completed s 0) := by
  rw [execRcopy_eq_next (regIs_lt hx) hx, withReg_self hx]

/-- Settles O28: the checks pass, and each command stores its words as they stand. -/
theorem rsetAndRcopyStoreRawWords : Obligations.RsetAndRcopyStoreRawWords := by
  unfold Obligations.RsetAndRcopyStoreRawWords
  refine ⟨fun rd ms s x hrd hslot => ?_, fun rd rs s x hrd hx => execRcopy_eq_next hrd hx, fun rd s x hx => execRcopy_self hx⟩
  rw [ofNat_din4]
  exact finish_loadReg hrd hslot fun _ => s.din4

end Sys2Proof.Proofs

/-! PROOF. Faults (`spec/60_exceptions.md`): the priority of a command's checks, said once for all commands (`exec_checked`, R209,
R212), and from it which code a command answers; the error record (R210, R211); the block never stops (R213, R244). -/

namespace Sys2Proof.Proofs

open Sys2Proof Sys2Proof.Machine Sys2Proof.Claims

variable {i : Instr} {s t u : State}

/-! ### The error record (R210, R211) -/

theorem raise_err_ne_zero (s : State) (c : ErrCode) : (s.raise c).rsp.err ≠ 0 := code_ne_zero c

/-- Settles O14: a fault is `faulted`, and a command that completes answers code 0. -/
theorem faultChangesOnlyTheErrorRecord : Obligations.FaultChangesOnlyTheErrorRecord := by
  unfold Obligations.FaultChangesOnlyTheErrorRecord
  intro i s t h herr
  obtain ⟨c, rfl⟩ | ⟨u, d, _, rfl⟩ := exec_cases h
  · exact raise_eq_faulted s c
  · exact absurd rfl herr

/-- Only CLRERR writes the error record (R211). -/
theorem CommandWrites.record_eq (h : CommandWrites i s u) (hi : i ≠ .clrerr) :
    u.status.err = s.status.err ∧ u.status.errcmd = s.status.errcmd := by
  induction h with
  | nothing | modulus | base => exact ⟨rfl, rfl⟩
  | clearErr hclrerr => exact absurd hclrerr hi
  | reg _ _ _ ih | flag _ _ ih => exact ih

/-- How an accepted word ends: with a fault, as CLRERR, or with the error record kept. -/
theorem runAccepted_record (h : runAccepted s = .next t) :
    (∃ c, t = s.raise c) ∨ (decode s.cmdWord = .ok .clrerr ∧ t = s.clearErr.respond doutNone) ∨
      (decode s.cmdWord ≠ .ok .clrerr ∧ t.rsp.err = 0 ∧
        t.status.err = s.status.err ∧ t.status.errcmd = s.status.errcmd) := by
  cases hdecode : decode s.cmdWord with
  | error e =>
    rw [runAccepted_of_illegal hdecode] at h
    cases h
    exact .inl ⟨.illegal, rfl⟩
  | ok i =>
    rw [runAccepted_of_decode hdecode] at h
    by_cases hi : i = .clrerr
    · subst hi
      cases h
      exact .inr (.inl ⟨rfl, rfl⟩)
    · refine (exec_cases h).imp_right fun ⟨u, d, hu, ht⟩ => .inr ⟨fun hclrerr => hi (Except.ok.inj hclrerr), ?_⟩
      rw [ht]
      exact ⟨rfl, hu.record_eq hi⟩

/-- Settles O15: a fault is recorded if none is, CLRERR clears the record, and what completes otherwise keeps it. -/
theorem errorRecordKeepsTheFirstFault : Obligations.ErrorRecordKeepsTheFirstFault := by
  unfold Obligations.ErrorRecordKeepsTheFirstFault
  intro s t h
  obtain ⟨c, rfl⟩ | ⟨hdecode, rfl⟩ | ⟨hdecode, hzero, hkept⟩ := runAccepted_record h
  · have hcode := raise_err_ne_zero s c
    refine ⟨fun _ hclear => ?_, fun _ hset => record_of_set hset, fun hzero => absurd hzero hcode,
      fun hzero => absurd hzero hcode⟩
    rw [State.raise_status, record_of_clear hclear]
    exact ⟨rfl, rfl⟩
  · exact ⟨fun herr => absurd rfl herr, fun herr => absurd rfl herr, fun _ _ => ⟨rfl, rfl⟩, fun _ hne => absurd hdecode hne⟩
  · exact ⟨fun herr => absurd hzero herr, fun herr => absurd hzero herr, fun _ hclrerr => absurd hclrerr hdecode,
      fun _ _ => hkept⟩

/-! ### Nothing stops the block (R213, R244) -/

/-- Settles O9: an idle cycle, a reset and the transaction of any word each answer a next state. -/
theorem noStateStopsTheBlock : Obligations.NoStateStopsTheBlock := by
  unfold Obligations.NoStateStopsTheBlock
  intro s
  obtain ⟨_, hstep⟩ | ⟨_, _, hstep⟩ | ⟨w, d, rest, _, hstep⟩ := step_cases s
  · exact ⟨_, hstep⟩
  · exact ⟨_, hstep⟩
  · obtain ⟨t, ht, _⟩ := runAccepted_answers (s.accept w d rest)
    exact ⟨t, hstep.trans ht⟩

/-! ### The priority of the checks (R209) -/

section Checks

variable {α : Type} {codes : List Nat} {p q : Bool} {rd rs : RegIx} {ms es : SlotIx}

/-- `FaultsIn codes r`: `r` takes no fault but `codes`, and not `E_INDEX`. -/
def FaultsIn (codes : List Nat) (r : Except ErrCode α) : Prop :=
  ∀ c, r = .error c → c ≠ .index ∧ c.code.toNat ∈ codes

theorem faultsIn_pure (a : α) : FaultsIn codes (pure a) := fun _ h => nomatch h

theorem faultsIn_bind {β : Type} {x : Except ErrCode α} {f : α → Except ErrCode β} (hx : FaultsIn codes x)
    (hf : ∀ a, FaultsIn codes (f a)) : FaultsIn codes (x >>= f) := by
  intro c hc
  obtain hc | ⟨a, _, hc⟩ := bind_eq_error.mp hc
  · exact hx c hc
  · exact hf a c hc

theorem faultsIn_readModulus (hcodes : 7 ∈ codes) : FaultsIn codes (s.readModulus ms) := by
  intro c hc
  obtain ⟨_, rfl⟩ := readModulus_eq_error.mp hc
  exact ⟨by decide, hcodes⟩

theorem faultsIn_needCompat {z x : Residue} {mz mx : Modulus} (hcodes : 4 ∈ codes) :
    FaultsIn codes (needCompat z x mz mx) := by
  intro c hc
  obtain ⟨_, rfl⟩ := needCompat_eq_error.mp hc
  exact ⟨by decide, hcodes⟩

theorem faultsIn_needFree (hcodes : 8 ∈ codes) : FaultsIn codes (s.needFree ms) := by
  intro c hc
  obtain ⟨_, rfl⟩ := needFree_eq_error.mp hc
  exact ⟨by decide, hcodes⟩

/-- Of the three faults of modulus construction only `E_MOD_RANGE` is reachable (R95). -/
theorem faultsIn_newmod {m : W256} (hcodes : 1 ∈ codes) : FaultsIn codes (newmod m) := by
  intro c hc
  obtain hm | hm := Nat.lt_or_ge m.toNat (2 ^ 192)
  · cases (newmod_of_lt hm).symm.trans hc
    exact ⟨by decide, hcodes⟩
  · obtain ⟨x, hx⟩ := newmod_isOk hm
    cases hx.symm.trans hc

/-- What comes after a command's index and source checks: the slot of a tag is read, then the rest. -/
theorem faultsIn_afterSlot {f : Modulus → Except ErrCode α} (hcodes : 7 ∈ codes) (hf : ∀ x, FaultsIn codes (f x)) :
    FaultsIn codes (s.readModulus ms >>= f) :=
  faultsIn_bind (faultsIn_readModulus hcodes) hf

/-- `Checked inRange valid codes r`: `r` is `E_INDEX` unless its indices are in range, then `E_INVALID` unless its sources are
valid, and then takes no fault but `codes` (R209). -/
structure Checked (inRange valid : Bool) (codes : List Nat) (r : Except ErrCode α) : Prop where
  of_outOfRange : inRange = false → r = .error .index
  of_invalid : inRange = true → valid = false → r = .error .invalid
  of_valid : inRange = true → valid = true → FaultsIn codes r

theorem checked_of_faultsIn {r : Except ErrCode α} (h : FaultsIn codes r) : Checked true true codes r :=
  ⟨(nomatch ·), fun _ => (nomatch ·), fun _ _ => h⟩

theorem Checked.of_eq {p' q' : Bool} {r : Except ErrCode α} (hp : p = p') (hq : q = q') (h : Checked p q codes r) :
    Checked p' q' codes r := hp ▸ hq ▸ h

/-- An index check in front. -/
theorem checked_index {x : Except ErrCode Unit} {f : Unit → Except ErrCode α} {b : Bool} (hok : x = .ok () ↔ b = true)
    (herror : ∀ c, x = .error c → c = .index) (hf : ∀ a, Checked p q codes (f a)) :
    Checked (b && p) q codes (x >>= f) := by
  cases x with
  | ok a =>
    rw [hok.mp rfl]
    exact hf a
  | error c =>
    cases herror c rfl
    rw [Bool.eq_false_iff.mpr (mt hok.mpr nofun)]
    exact ⟨fun _ => rfl, (nomatch ·), (nomatch ·)⟩

/-- A source read in front, after every index check. -/
theorem checked_source {β : Type} {x : Except ErrCode β} {f : β → Except ErrCode α} {b : Bool}
    (hok : Completes x ↔ b = true) (herror : ∀ c, x = .error c → c = .invalid) (hf : ∀ a, Checked true q codes (f a)) :
    Checked true (b && q) codes (x >>= f) := by
  cases x with
  | ok a =>
    rw [hok.mp ⟨a, rfl⟩]
    exact hf a
  | error c =>
    cases herror c rfl
    rw [Bool.eq_false_iff.mpr (mt hok.mpr nofun)]
    exact ⟨(nomatch ·), fun _ _ => rfl, fun _ => (nomatch ·)⟩

theorem checked_needReg {f : Unit → Except ErrCode α} (hf : ∀ a, Checked p q codes (f a)) :
    Checked (s.params.hasReg rd && p) q codes (s.needReg rd >>= f) :=
  checked_index needReg_eq_ok_iff_hasReg (fun _ h => (needReg_eq_error.mp h).2) hf

theorem checked_needModulus {f : Unit → Except ErrCode α} (hf : ∀ a, Checked p q codes (f a)) :
    Checked (s.params.hasModulus ms && p) q codes (s.needModulus ms >>= f) :=
  checked_index needModulus_eq_ok_iff_hasModulus (fun _ h => (needModulus_eq_error.mp h).2) hf

theorem checked_needBase {f : Unit → Except ErrCode α} (hf : ∀ a, Checked p q codes (f a)) :
    Checked (s.params.hasBase es && p) q codes (s.needBase es >>= f) :=
  checked_index needBase_eq_ok_iff_hasBase (fun _ h => (needBase_eq_error.mp h).2) hf

theorem checked_readReg {f : Residue → Except ErrCode α} (hf : ∀ z, Checked true q codes (f z)) :
    Checked true (s.hasReg rd && q) codes (s.readReg rd >>= f) :=
  checked_source (by simp only [Completes, readReg_eq_ok, hasReg_iff]) (fun _ h => (readReg_eq_error.mp h).2) hf

theorem checked_readModulus {f : Modulus → Except ErrCode α} (hf : ∀ x, Checked true q codes (f x)) :
    Checked true (s.hasModulus ms && q) codes (s.readModulus ms >>= f) :=
  checked_source (by simp only [Completes, readModulus_eq_ok, hasModulus_iff]) (fun _ h => (readModulus_eq_error.mp h).2) hf

theorem checked_readBase {f : ExpBase → Except ErrCode α} (hf : ∀ b, Checked true q codes (f b)) :
    Checked true (s.hasBase es && q) codes (s.readBase es >>= f) :=
  checked_source (by simp only [Completes, readBase_eq_ok, hasBase_iff]) (fun _ h => (readBase_eq_error.mp h).2) hf

/-- A command on one residue. -/
theorem checked_unary {f : Residue → Modulus → Except ErrCode α} (hcodes : 7 ∈ codes)
    (hf : ∀ z slot, FaultsIn codes (f z slot)) :
    Checked (s.params.hasReg rd) (s.hasReg rd) codes (do
      s.needReg rd
      let z ← s.readReg rd
      let slot ← s.readModulus z.tag
      f z slot) :=
  Checked.of_eq (Bool.and_true _) (Bool.and_true _) <| checked_needReg fun _ => checked_readReg fun z =>
    checked_of_faultsIn (faultsIn_afterSlot hcodes (hf z))

/-- A command on two residues. -/
theorem checked_binary {f : Residue → Residue → Except ErrCode α} (hf : ∀ z x, FaultsIn codes (f z x)) :
    Checked (s.params.hasReg rd && s.params.hasReg rs) (s.hasReg rd && s.hasReg rs) codes (do
      s.needReg rd
      s.needReg rs
      let z ← s.readReg rd
      let x ← s.readReg rs
      f z x) :=
  Checked.of_eq (by simp only [Bool.and_true]) (by simp only [Bool.and_true]) <|
    checked_needReg fun _ => checked_needReg fun _ => checked_readReg fun z => checked_readReg fun x =>
      checked_of_faultsIn (hf z x)

/-- MODGET, MUGET, MMU0GET, MMU1GET (R97 to R100). -/
theorem checked_readOut {f : Modulus → α} :
    Checked (s.params.hasModulus ms) (s.hasModulus ms) codes (do
      s.needModulus ms
      let slot ← s.readModulus ms
      return f slot) :=
  Checked.of_eq (Bool.and_true _) (Bool.and_true _) <| checked_needModulus fun _ => checked_readModulus fun slot =>
    checked_of_faultsIn (faultsIn_pure (f slot))

/-- RSET and RED8 (R117, R187). -/
theorem checked_loadReg {f : Modulus → α} :
    Checked (s.params.hasReg rd && s.params.hasModulus ms) (s.hasModulus ms) codes (do
      s.needReg rd
      s.needModulus ms
      let slot ← s.readModulus ms
      return f slot) :=
  checked_needReg fun _ => checked_readOut

end Checks

/-- `exec i s` ends as a result with the checks of `i`: its indices, its sources, and the faults of its row (R209, R212). -/
def EndsChecked (i : Instr) (s : State) : Prop :=
  ∃ r, exec i s = s.finish r ∧ Checked (i.wf s.params) (sourcesValid i s) (possibleCodes i) r

/-- EQ and NEQ need no compatible operands (R180, R181). -/
theorem compareRegs_checked {rd rs : RegIx} {answer : Bool → Bool} {codes : List Nat} (hcodes : 7 ∈ codes) :
    ∃ r, compareRegs rd rs answer s = s.finish r ∧
      Checked (s.params.hasReg rd && s.params.hasReg rs) (s.hasReg rd && s.hasReg rs) codes r := by
  refine ⟨_, rfl, checked_binary fun z x => faultsIn_afterSlot hcodes fun mz => faultsIn_afterSlot hcodes fun mx => ?_⟩
  split
  · exact faultsIn_pure _
  · exact faultsIn_pure _

/-- ADD and SUB (R128, R129). -/
theorem additive_checked {rd rs : RegIx} {f : Residue → Residue → Modulus → Modulus → Effect} {codes : List Nat}
    (hinvalid : 7 ∈ codes) (hincompat : 4 ∈ codes) :
    Checked (s.params.hasReg rd && s.params.hasReg rs) (s.hasReg rd && s.hasReg rs) codes (do
      s.needReg rd
      s.needReg rs
      let z ← s.readReg rd
      let x ← s.readReg rs
      let mz ← s.readModulus z.tag
      let mx ← s.readModulus x.tag
      needCompat z x mz mx
      return f z x mz mx) :=
  checked_binary fun _ _ => faultsIn_afterSlot hinvalid fun _ => faultsIn_afterSlot hinvalid fun _ =>
    faultsIn_bind (faultsIn_needCompat hincompat) fun _ => faultsIn_pure _

/-- MUL, by both of its paths (R142). -/
theorem execMul_endsChecked (rd rs : RegIx) (s : State) : EndsChecked (.mul rd rs) s := by
  refine ⟨_, rfl, checked_binary fun z x => faultsIn_afterSlot (by simp [possibleCodes]) fun mz => ?_⟩
  split
  · exact faultsIn_pure _
  · exact faultsIn_afterSlot (by simp [possibleCodes]) fun mx =>
      faultsIn_bind (faultsIn_needCompat (by simp [possibleCodes])) fun _ => faultsIn_pure _

/-- Every command checks its indices, then its sources, then what its row of R212 names (R209). -/
theorem exec_checked (i : Instr) (s : State) : EndsChecked i s := by
  cases i with
  | nop => exact ⟨.ok { state := s, dout := doutNone }, rfl, checked_of_faultsIn (faultsIn_pure _)⟩
  | clrerr => exact ⟨.ok { state := s.clearErr, dout := doutNone }, rfl, checked_of_faultsIn (faultsIn_pure _)⟩
  | modset ms =>
    exact ⟨_, rfl, Checked.of_eq (Bool.and_true _) rfl <| checked_needModulus fun _ => checked_of_faultsIn <|
      faultsIn_bind (faultsIn_needFree (by simp [possibleCodes])) fun _ =>
        faultsIn_bind (faultsIn_newmod (by simp [possibleCodes])) fun _ => faultsIn_pure _⟩
  | modget ms => exact ⟨_, rfl, checked_readOut⟩
  | muget ms => exact ⟨_, rfl, checked_readOut⟩
  | mmu0get ms => exact ⟨_, rfl, checked_readOut⟩
  | mmu1get ms => exact ⟨_, rfl, checked_readOut⟩
  | rset rd ms => exact ⟨_, rfl, checked_loadReg⟩
  | rget rd => exact ⟨_, rfl, checked_unary (by simp [possibleCodes]) fun _ _ => faultsIn_pure _⟩
  | rcopy rd rs =>
    exact ⟨_, rfl, Checked.of_eq (by simp only [Instr.wf, Bool.and_true]) (Bool.and_true _) <|
      checked_needReg fun _ => checked_needReg fun _ => checked_readReg fun _ => checked_of_faultsIn (faultsIn_pure _)⟩
  | red4 rd => exact ⟨_, rfl, checked_unary (by simp [possibleCodes]) fun _ _ => faultsIn_pure _⟩
  | red8 rd ms => exact ⟨_, rfl, checked_loadReg⟩
  | add rd rs => exact ⟨_, rfl, additive_checked (by simp [possibleCodes]) (by simp [possibleCodes])⟩
  | sub rd rs => exact ⟨_, rfl, additive_checked (by simp [possibleCodes]) (by simp [possibleCodes])⟩
  | neg rd => exact ⟨_, rfl, checked_unary (by simp [possibleCodes]) fun _ _ => faultsIn_pure _⟩
  | dbl rd => exact ⟨_, rfl, checked_unary (by simp [possibleCodes]) fun _ _ => faultsIn_pure _⟩
  | mul rd rs => exact execMul_endsChecked rd rs s
  | sqr rd => exact ⟨_, rfl, checked_unary (by simp [possibleCodes]) fun _ _ => faultsIn_pure _⟩
  | eq rd rs => exact compareRegs_checked (by simp [possibleCodes])
  | neq rd rs => exact compareRegs_checked (by simp [possibleCodes])
  | inv rd => exact ⟨_, rfl, checked_unary (by simp [possibleCodes]) fun _ _ => faultsIn_pure _⟩
  | exp rd => exact ⟨_, rfl, checked_unary (by simp [possibleCodes]) fun _ _ => faultsIn_pure _⟩
  | expb es rs => exact ⟨_, rfl, checked_needBase fun _ => checked_unary (by simp [possibleCodes]) fun _ _ => faultsIn_pure _⟩
  | expp rd es =>
    exact ⟨_, rfl, Checked.of_eq (by simp only [Instr.wf, Bool.and_true]) (Bool.and_true _) <|
      checked_needReg fun _ => checked_needBase fun _ => checked_readBase fun _ => checked_of_faultsIn <|
        faultsIn_afterSlot (by simp [possibleCodes]) fun _ => faultsIn_pure _⟩

/-! ### Which code a command answers (R205, R206, R212) -/

/-- `E_INDEX` is the only fault with code 6 (R200). -/
theorem eq_index_of_code {c : ErrCode} (h : c.code = 6) : c = .index := by
  cases c
  case index => rfl
  all_goals exact absurd h (by decide)

theorem exec_of_outOfRange (h : i.wf s.params = false) : exec i s = .next (s.raise .index) := by
  obtain ⟨r, hexec, hr⟩ := exec_checked i s
  rw [hexec, hr.of_outOfRange h, finish_error]

theorem exec_of_invalid (hwf : i.wf s.params = true) (h : sourcesValid i s = false) :
    exec i s = .next (s.raise .invalid) := by
  obtain ⟨r, hexec, hr⟩ := exec_checked i s
  rw [hexec, hr.of_invalid hwf h, finish_error]

/-- With indices in range and sources valid a command completes, or takes a fault of its row other than `E_INDEX`. -/
theorem exec_of_valid (hwf : i.wf s.params = true) (hvalid : sourcesValid i s = true) (h : exec i s = .next t) :
    t.rsp.err = 0 ∨ ∃ c, t = s.raise c ∧ c ≠ .index ∧ c.code.toNat ∈ possibleCodes i := by
  obtain ⟨r, hexec, hr⟩ := exec_checked i s
  rw [hexec] at h
  obtain ⟨e, _, rfl⟩ | ⟨c, hc, rfl⟩ := finish_eq_next.mp h
  · exact .inl rfl
  · exact .inr ⟨c, rfl, hr.of_valid hwf hvalid c hc⟩

/-- Settles O16: out of range is the first check, and no later one answers `E_INDEX`. -/
theorem indexFaultExactlyWhenOutOfRange : Obligations.IndexFaultExactlyWhenOutOfRange := by
  unfold Obligations.IndexFaultExactlyWhenOutOfRange
  refine fun i s => ⟨exec_of_outOfRange, fun t h hwf => ?_⟩
  cases hvalid : sourcesValid i s with
  | false =>
    rw [exec_of_invalid hwf hvalid] at h
    cases h
    exact (by decide : ErrCode.invalid.code ≠ 6)
  | true =>
    obtain hzero | ⟨c, rfl, hne, _⟩ := exec_of_valid hwf hvalid h
    · rw [hzero]
      decide
    · exact fun hcode => hne (eq_index_of_code hcode)

/-- Settles O17: the sources are the second check. -/
theorem invalidSourceFaults : Obligations.InvalidSourceFaults := by
  unfold Obligations.InvalidSourceFaults
  exact fun i s hwf hvalid => exec_of_invalid hwf hvalid

/-- Settles O18: the slot is tested before the modulus. -/
theorem modsetFaultsOnBusySlotThenOnSmallModulus : Obligations.ModsetFaultsOnBusySlotThenOnSmallModulus := by
  unfold Obligations.ModsetFaultsOnBusySlotThenOnSmallModulus
  intro ms s hms
  refine ⟨fun hbusy => ?_, fun hinvalid hm => ?_⟩
  · obtain ⟨x, hx⟩ := hasModulus_iff.mp hbusy
    exact execModset_of_valid hx
  · have hfree : s.needFree ms = .ok () := needFree_eq_ok.mpr (hasModulus_eq_false_iff.mp hinvalid)
    rw [← toNat_din4] at hm
    calc exec (.modset ms) s = execModset ms s := rfl
      _ = .next (s.raise .modRange) := by rw [execModset, needModulus_eq_ok.mpr hms, hfree, newmod_of_lt hm]; rfl

/-- A command with an index field has `E_INDEX` in its row (R212). -/
theorem index_mem_possibleCodes {p : Params} (h : i.wf p = false) : 6 ∈ possibleCodes i := by
  cases i
  case nop | clrerr => cases h
  all_goals simp [possibleCodes]

/-- A command with a source has `E_INVALID` in its row (R212). -/
theorem invalid_mem_possibleCodes (h : sourcesValid i s = false) : 7 ∈ possibleCodes i := by
  cases i
  case nop | clrerr | modset => cases h
  all_goals simp [possibleCodes]

/-- Settles O20: by the three outcomes of the checks, each with its code in the row. -/
theorem commandReportsOnlyItsOwnCodes : Obligations.CommandReportsOnlyItsOwnCodes := by
  unfold Obligations.CommandReportsOnlyItsOwnCodes
  refine ⟨fun i s t h => ?_, fun s t e hdecode h => ?_⟩
  · cases hwf : i.wf s.params with
    | false =>
      rw [exec_of_outOfRange hwf] at h
      cases h
      exact .inr (index_mem_possibleCodes hwf)
    | true =>
    cases hvalid : sourcesValid i s with
    | false =>
      rw [exec_of_invalid hwf hvalid] at h
      cases h
      exact .inr (invalid_mem_possibleCodes hvalid)
    | true =>
      obtain hzero | ⟨c, rfl, _, hmem⟩ := exec_of_valid hwf hvalid h
      · exact .inl hzero
      · exact .inr hmem
  · rw [runAccepted_of_illegal hdecode] at h
    cases h
    rfl

end Sys2Proof.Proofs

/-! PROOF. Reset and hazards (`spec/70_reset_and_hazards.md`): reset at a clock edge (R230, R231), and the commands that name one
register twice (R236). -/

namespace Sys2Proof.Proofs

open Sys2Proof Sys2Proof.Machine Sys2Proof.Claims

variable {s : State} {slot : Modulus}

/-! ### Reset on the clock (R230, R231) -/

/-- An edge with `rst = 1`, whatever the block was doing (R230). -/
theorem clockEdge_of_rst {lat : Latency} {c : Clocked} {p : PinsIn} (hrst : p.rst = true) :
    clockEdge lat c p = { block := c.block.applyReset c.block.pending, phase := .ready } := if_pos hrst

/-- An edge at which a ready block is offered no command (R66). -/
theorem clockEdge_ready_of_idle {lat : Latency} {b : State} {q : PinsIn} (hrst : q.rst = false) (hvalid : q.cmdValid = false) :
    clockEdge lat { block := b, phase := .ready } q = { block := b.idle, phase := .ready } := by
  simp only [clockEdge, hrst, hvalid, Bool.false_eq_true, if_false]

/-- An edge at which a ready block is offered a command: it accepts it (R66). -/
theorem clockEdge_ready_of_valid {lat : Latency} {b : State} {q : PinsIn} (hrst : q.rst = false) (hvalid : q.cmdValid = true) :
    clockEdge lat { block := b, phase := .ready } q =
      { block := (b.accept q.cmdWord q.cmdDin b.pending).idle, phase := .busy (lat q.cmdWord q.cmdDin b) } := by
  simp only [clockEdge, hrst, hvalid, Bool.false_eq_true, if_false, if_true]

/-- The reset state has its response pins at 0 (R231). -/
theorem applyReset_idle (s : State) (rest : List HostMove) : (s.applyReset rest).idle = s.applyReset rest := rfl

/-- Settles O59: the edge with `rst = 1` leaves a ready block in the reset state, which the next edge holds or accepts from. -/
theorem resetAbandonsTheCommandInFlight : Obligations.ResetAbandonsTheCommandInFlight := by
  unfold Obligations.ResetAbandonsTheCommandInFlight
  intro lat c p q hp hq
  rw [clockEdge_of_rst hp]
  refine ⟨rfl, rfl, rfl, rfl, fun hvalid => ?_, fun hvalid => ?_⟩
  · rw [clockEdge_ready_of_idle hq hvalid, applyReset_idle]
  · exact ⟨_, congrArg Clocked.phase (clockEdge_ready_of_valid hq hvalid)⟩

/-! ### Two fields that name one register (R236) -/

theorem subValue_self (slot : Modulus) (n : Nat) : subValue slot n n = 0 := by
  rw [subValue, if_pos le_rfl, Nat.sub_self]

/-- The second of two writes to one register is the one that stays. -/
theorem withReg_withReg (s : State) (rd : RegIx) (tag tag' : SlotIx) (r r' : W256) :
    withReg (withReg s rd tag r) rd tag' r' = withReg s rd tag' r' := by
  simp only [withReg, List.set_set]

/-- A comparison of a register with itself canonicalises it and answers "equal" (R180, R181). -/
theorem compareRegs_self {rd : RegIx} {z : Residue} (hz : s.regIs rd z) (hslot : s.modulusIs z.tag slot) (hvalid : slot.Valid)
    (answer : Bool → Bool) :
    compareRegs rd rd answer s = .next (completed (withFlag (withReg s rd z.tag (canon slot z.r)) (answer true)) 0) := by
  rw [compareRegs_of_eq hz hz hslot hslot hvalid hvalid rfl, withReg_withReg, decide_eq_true (Nat.ModEq.refl _)]

/-- Settles O44: each command by its rule for two residues, taken at one residue twice. -/
theorem aliasedOperandsAreReadBeforeTheWrite : Obligations.AliasedOperandsAreReadBeforeTheWrite := by
  unfold Obligations.AliasedOperandsAreReadBeforeTheWrite
  intro rd s z slot hz hslot hvalid
  obtain ⟨hadd, hsub⟩ := addAndSubFollowTheirRules rd rd s z z slot slot hz hz hslot hslot (.inl rfl)
  obtain ⟨_, hdbl⟩ := negAndDblFollowTheirRules rd s z slot hz hslot
  rw [subValue_self] at hsub
  exact ⟨hadd.trans hdbl.symm, hsub, execMul_self rd s, compareRegs_self hz hslot hvalid id,
    compareRegs_self hz hslot hvalid neqFlag, execRcopy_self hz⟩

end Sys2Proof.Proofs

/-! PROOF. Only classes are observable (R192): the functions of the block respect classes, two runs whose states hold the same
classes take the same checks and read the same classes, and so every command leaves them with the same response and the same
classes. -/

namespace Sys2Proof.Proofs

open Sys2Proof Sys2Proof.Machine Sys2Proof.Claims

variable {s s' u u' : State} {slot : Modulus}

/-! ### The functions of the block respect classes -/

section Respect

variable {a a' b b' : W256}

theorem add256_respects (hslot : slot.Valid) (ha : residueClass slot a = residueClass slot a')
    (hb : residueClass slot b = residueClass slot b') :
    residueClass slot (add256 slot a b) = residueClass slot (add256 slot a' b') := by
  simp only [residueClass_add256 hslot, ha, hb]

theorem sub256_respects (hslot : slot.Valid) (ha : residueClass slot a = residueClass slot a')
    (hb : residueClass slot b = residueClass slot b') :
    residueClass slot (sub256 slot a b) = residueClass slot (sub256 slot a' b') := by
  simp only [residueClass_sub256 hslot, ha, hb]

theorem mulmod_respects (hslot : slot.Valid) (ha : residueClass slot a = residueClass slot a')
    (hb : residueClass slot b = residueClass slot b') :
    residueClass slot (mulmod slot a b) = residueClass slot (mulmod slot a' b') := by
  simp only [residueClass_mulmod hslot, ha, hb]

theorem sqrmod_respects (hslot : slot.Valid) (ha : residueClass slot a = residueClass slot a') :
    residueClass slot (sqrmod slot a) = residueClass slot (sqrmod slot a') := by
  simp only [sqrmod_eq_mulmod_self]
  exact mulmod_respects hslot ha ha

theorem neg256_respects (hslot : slot.Valid) (ha : residueClass slot a = residueClass slot a') :
    residueClass slot (neg256 slot a) = residueClass slot (neg256 slot a') := by
  simp only [residueClass_neg256 hslot, ha]

theorem reduce4_respects (hslot : slot.Valid) (ha : residueClass slot a = residueClass slot a') :
    residueClass slot (reduce4 slot a) = residueClass slot (reduce4 slot a') :=
  congrArg (residueClass slot) (reduce4_eq_of_class hslot ha)

theorem exp256_respects (hslot : slot.Valid) (ha : residueClass slot a = residueClass slot a') (y : W256) :
    residueClass slot (exp256 slot a y) = residueClass slot (exp256 slot a' y) := by
  have hpow := (residueClass_eq_iff.mp ha).pow y.toNat
  exact residueClass_eq_iff.mpr <| (exp256_modEq hslot a y).trans <| hpow.trans (exp256_modEq hslot a' y).symm

theorem inv256_success_respects (hslot : slot.Valid) (ha : residueClass slot a = residueClass slot a') :
    (inv256 slot a).2 = (inv256 slot a').2 := by
  rw [Bool.eq_iff_iff, inv256_success_iff hslot, inv256_success_iff hslot, (residueClass_eq_iff.mp ha).gcd_eq]

/-- On success, the value of `inv256` is the inverse in the ring of classes (R155). -/
theorem residueClass_inv256_mul (hslot : slot.Valid) (hok : (inv256 slot a).2 = true) :
    residueClass slot (inv256 slot a).1 * residueClass slot a = 1 := by
  have hone := inv256_mul_modEq_one hslot ((inv256_success_iff hslot a).mp hok)
  rw [residueClass, residueClass, ← Nat.cast_mul, (ZMod.natCast_eq_natCast_iff _ _ _).mpr hone, Nat.cast_one]

/-- An inverse is unique in the ring of classes, and a failure answers 0 (R155). -/
theorem inv256_value_respects (hslot : slot.Valid) (ha : residueClass slot a = residueClass slot a') :
    residueClass slot (inv256 slot a).1 = residueClass slot (inv256 slot a').1 := by
  have hflag := inv256_success_respects hslot ha
  cases hok : (inv256 slot a).2 with
  | false => rw [inv256_value_of_failure hslot hok, inv256_value_of_failure hslot (hflag.symm.trans hok)]
  | true =>
    have hinv := residueClass_inv256_mul hslot hok
    have hinv' := residueClass_inv256_mul hslot (hflag.symm.trans hok)
    rw [ha] at hinv
    rw [mul_comm] at hinv'
    exact left_inv_eq_right_inv hinv hinv'

/-- Two tables with the same class in each entry. -/
def SameTable (slot : Modulus) (l l' : Vector W256 16) : Prop :=
  ∀ j : Fin 16, residueClass slot l[j] = residueClass slot l'[j]

theorem tableEntry_respects {l l' : Vector W256 16} (hl : SameTable slot l l') (y : W256) (k : Nat) :
    residueClass slot (tableEntry l.toList (win y k)) = residueClass slot (tableEntry l'.toList (win y k)) := by
  have hentry (v : Vector W256 16) : tableEntry v.toList (win y k) = v[(⟨win y k, win_lt y k⟩ : Fin 16)] := by
    rw [tableEntry, List.getD_eq_getElem _ _ (by simpa using win_lt y k), Vector.getElem_toList]
    rfl
  rw [hentry, hentry]
  exact hl _

/-- The scan of `EXPP` over tables of the same classes (R168). -/
theorem exppScan_respects (hslot : slot.Valid) {l l' h h' : Vector W256 16} (hl : SameTable slot l l')
    (hh : SameTable slot h h') (y : W256) (n : Nat) (ha : residueClass slot a = residueClass slot a') :
    residueClass slot (exppScan slot l.toList h.toList y n a) =
      residueClass slot (exppScan slot l'.toList h'.toList y n a') := by
  induction n generalizing a a' with
  | zero => simpa only [exppScan_zero] using ha
  | succ n ih =>
    rw [exppScan_succ, exppScan_succ]
    exact ih <| mulmod_respects hslot
      (mulmod_respects hslot (sqrmod_respects hslot ha) (tableEntry_respects hh y (n + 32))) (tableEntry_respects hl y n)

theorem expp256_respects (hslot : slot.Valid) {l l' h h' : Vector W256 16} (hl : SameTable slot l l')
    (hh : SameTable slot h h') (y : W256) :
    residueClass slot (expp256 slot l.toList h.toList y) = residueClass slot (expp256 slot l'.toList h'.toList y) :=
  exppScan_respects hslot hl hh y 31 (mulmod_respects hslot (tableEntry_respects hh y 63) (tableEntry_respects hl y 31))

/-- The tables of a new base hold powers of its raw value, so classes that depend on its class only (R30, R166). -/
theorem newBase_respects (hslot : slot.Valid) {x x' : Residue} (hx : residueClass slot x.r = residueClass slot x'.r) :
    SameTable slot (newBase slot x).l (newBase slot x').l ∧ SameTable slot (newBase slot x).h (newBase slot x').h := by
  obtain ⟨_, _, hpowers⟩ := newBase_tablesFor hslot x
  obtain ⟨_, _, hpowers'⟩ := newBase_tablesFor hslot x'
  obtain ⟨_, _, hl1⟩ := newBase_raw_entries slot x
  obtain ⟨_, _, hl1'⟩ := newBase_raw_entries slot x'
  rw [hl1] at hpowers
  rw [hl1'] at hpowers'
  have hpow (e : Nat) := (residueClass_eq_iff.mp hx).pow e
  exact ⟨fun j => residueClass_eq_iff.mpr <| (hpowers j).1.trans <| (hpow _).trans (hpowers' j).1.symm,
    fun j => residueClass_eq_iff.mpr <| (hpowers j).2.trans <| (hpow _).trans (hpowers' j).2.symm⟩

end Respect

/-! ### Banks that hold the same classes -/

section Banks

variable {α : Type} {R S : α → α → Prop} {l l' : List α}

theorem forall₂_getElem? (h : List.Forall₂ R l l') (k : Nat) : Option.Rel R l[k]? l'[k]? := by
  induction h generalizing k with
  | nil => exact .none
  | cons hab _ ih =>
    cases k with
    | zero => exact .some hab
    | succ k => exact ih k

theorem forall₂_set (h : List.Forall₂ R l l') {a b : α} (hab : R a b) (k : Nat) :
    List.Forall₂ R (l.set k a) (l'.set k b) := by
  induction h generalizing k with
  | nil => exact .nil
  | cons hhead htail ih =>
    cases k with
    | zero => exact .cons hab htail
    | succ k => exact .cons hhead (ih k)

theorem forall₂_imp_of_mem (h : List.Forall₂ R l l') (himp : ∀ a ∈ l, ∀ b, R a b → S a b) : List.Forall₂ S l l' := by
  rw [List.forall₂_iff_zip] at h ⊢
  exact ⟨h.1, fun hab => himp _ (List.of_mem_zip hab).1 _ (h.2 hab)⟩

end Banks

/-- Two registers with one tag are of one class when they are so modulo the slot of the tag. -/
theorem sameClass_some {x x' : Residue} (hslot : s.modulusIs x.tag slot) (htag : x.tag = x'.tag)
    (hclass : residueClass slot x.r = residueClass slot x'.r) : sameClass s.M (some x) (some x') := by
  refine ⟨htag, fun slot' hslot' => ?_⟩
  rw [modulusIs_unique hslot' hslot]
  exact residueClass_eq_iff.mp hclass

theorem sameClass_refl (M : List (Option Modulus)) (x : Residue) : sameClass M (some x) (some x) :=
  ⟨rfl, fun _ _ => Nat.ModEq.refl _⟩

/-! ### The writes of two runs -/

theorem SameClasses.setReg (h : s.SameClasses s') {rd : RegIx} {x x' : Residue} (hx : sameClass s.M (some x) (some x')) :
    (s.setReg rd x).SameClasses (s'.setReg rd x') := by
  obtain ⟨hM, hR, hrest⟩ := h
  exact ⟨hM, forall₂_set hR hx rd.toNat, hrest⟩

theorem SameClasses.setBase (h : s.SameClasses s') {es : SlotIx} {b b' : ExpBase}
    (hb : sameTables s.M (some b) (some b')) : (s.setBase es b).SameClasses (s'.setBase es b') := by
  obtain ⟨hM, hR, hE, hrest⟩ := h
  exact ⟨hM, hR, forall₂_set hE hb es.toNat, hrest⟩

/-- A tag of a register or a base names a valid slot (R26, R37), so filling a free slot changes the modulus of none. -/
theorem SameClasses.setModulus (h : s.SameClasses s') (htags : s.TagsValid) {ms : SlotIx} {x : Modulus}
    (hfree : ∀ y, ¬ s.modulusIs ms y) : (s.setModulus ms x).SameClasses (s'.setModulus ms x) := by
  obtain ⟨hM, hR, hE, hrest⟩ := h
  obtain ⟨htagsR, htagsE⟩ := htags
  have hkept {tag : SlotIx} (htag : s.hasModulus tag = true) : (s.setModulus ms x).M[tag.toNat]? = s.M[tag.toNat]? := by
    obtain ⟨y, hy⟩ := hasModulus_iff.mp htag
    exact setModulus_getElem?_ne fun heq => hfree y (by rwa [State.modulusIs, ← heq])
  refine ⟨congrArg (·.set ms.toNat (some x)) hM, forall₂_imp_of_mem hR ?_, forall₂_imp_of_mem hE ?_, hrest⟩
  · rintro (_ | z) hz (_ | z') hclass
    · exact hclass
    · exact hclass
    · exact hclass
    · exact ⟨hclass.1, fun slot hslot => hclass.2 slot ((hkept (htagsR _ hz z rfl)).symm.trans hslot)⟩
  · rintro (_ | b) hb (_ | b') hclass
    · exact hclass
    · exact hclass
    · exact hclass
    · exact ⟨hclass.1, fun slot hslot => hclass.2 slot ((hkept (htagsE _ hb b rfl)).symm.trans hslot)⟩

theorem SameClasses.setFlag (h : s.SameClasses s') (b : Bool) : (s.setFlag b).SameClasses (s'.setFlag b) := by
  obtain ⟨hM, hR, hE, hstatus, hrest⟩ := h
  exact ⟨hM, hR, hE, by rw [State.setFlag_status, State.setFlag_status, hstatus], hrest⟩

theorem SameClasses.clearErr (h : s.SameClasses s') : s.clearErr.SameClasses s'.clearErr := by
  obtain ⟨hM, hR, hE, hstatus, hrest⟩ := h
  exact ⟨hM, hR, hE, by rw [State.clearErr_status, State.clearErr_status, hstatus], hrest⟩

theorem SameClasses.respond (h : s.SameClasses s') (d : W320) : (s.respond d).SameClasses (s'.respond d) := by
  obtain ⟨hM, hR, hE, hstatus, _, hrest⟩ := h
  exact ⟨hM, hR, hE, hstatus, by rw [State.respond_rsp, State.respond_rsp, hstatus], hrest⟩

theorem SameClasses.raise (h : s.SameClasses s') (c : ErrCode) : (s.raise c).SameClasses (s'.raise c) := by
  obtain ⟨hM, hR, hE, hstatus, _, hword, hrest⟩ := h
  exact ⟨hM, hR, hE, by rw [State.raise_status, State.raise_status, hstatus, hword],
    by rw [State.raise_rsp, State.raise_rsp, hstatus], hword, hrest⟩

/-! ### Two runs side by side -/

section Runs

variable {α β : Type} {P : α → α → Prop} {Q : β → β → Prop} {rd rs : RegIx} {ms es : SlotIx}

/-- Two runs of a part of a command take the same fault, or succeed with related results. -/
inductive SameResult (P : α → α → Prop) : Except ErrCode α → Except ErrCode α → Prop
  | ok {a a' : α} : P a a' → SameResult P (.ok a) (.ok a')
  | error (c : ErrCode) : SameResult P (.error c) (.error c)

/-- The two runs drive the same data and leave the same classes. -/
def SameEffect (e e' : Effect) : Prop := e.state.SameClasses e'.state ∧ e.dout = e'.dout

theorem sameResult_bind {x x' : Except ErrCode α} {f f' : α → Except ErrCode β} (hx : SameResult P x x')
    (hf : ∀ a a', P a a' → SameResult Q (f a) (f' a')) : SameResult Q (x >>= f) (x' >>= f') := by
  cases hx with
  | ok ha => exact hf _ _ ha
  | error c => exact .error c

/-- A part that both runs do alike: a check, or a read of a slot. -/
theorem sameResult_bind_of_eq {x x' : Except ErrCode α} {f f' : α → Except ErrCode β} (hx : x = x')
    (hf : ∀ a, x = .ok a → SameResult Q (f a) (f' a)) : SameResult Q (x >>= f) (x' >>= f') := by
  subst hx
  cases x with
  | ok a => exact hf a rfl
  | error c => exact .error c

theorem sameResult_pure (hu : u.SameClasses u') (d : W320) :
    SameResult SameEffect (pure { state := u, dout := d }) (pure { state := u', dout := d }) := .ok ⟨hu, rfl⟩

/-- Where `o` answers a state, `o'` answers one that holds the same classes. -/
def SameAnswer (o o' : Host.Outcome State Fault Refusal) : Prop :=
  ∀ t, o = .next t → ∃ t', o' = .next t' ∧ t.SameClasses t'

theorem finish_sameAnswer {r r' : Except ErrCode Effect} (h : s.SameClasses s') (hr : SameResult SameEffect r r') :
    SameAnswer (s.finish r) (s'.finish r') := by
  intro t ht
  cases hr with
  | @ok e e' he =>
    obtain ⟨hstate, hdout⟩ := he
    cases ht
    exact ⟨e'.state.respond e'.dout, rfl, hdout ▸ SameClasses.respond hstate e.dout⟩
  | error c =>
    cases ht
    exact ⟨s'.raise c, rfl, SameClasses.raise h c⟩

/-- The two runs' contents of one register of a command, under their tag's slot. -/
structure SameOperand (s : State) (slot : Modulus) (z z' : Residue) : Prop where
  slot_is : s.modulusIs z.tag slot
  valid : slot.Valid
  tag_eq : z.tag = z'.tag
  class_eq : residueClass slot z.r = residueClass slot z'.r

/-- The class of an operand is the same over two slots that hold the same modulus. -/
theorem SameOperand.class_eq_of_m_eq {mz mx : Modulus} {x x' : Residue} (hx : SameOperand s mx x x') (hm : mz.m = mx.m) :
    residueClass mz x.r = residueClass mz x'.r := by
  rw [residueClass_eq_iff, hm, ← residueClass_eq_iff]
  exact hx.class_eq

section Reads

variable (h : s.SameClasses s')
include h

theorem SameClasses.needReg_eq : s.needReg rd = s'.needReg rd := by
  obtain ⟨_, hR, _⟩ := h
  rw [State.needReg, State.needReg, hR.length_eq]

theorem SameClasses.needBase_eq : s.needBase es = s'.needBase es := by
  obtain ⟨_, _, hE, _⟩ := h
  rw [State.needBase, State.needBase, hE.length_eq]

theorem SameClasses.needModulus_eq : s.needModulus ms = s'.needModulus ms := by
  obtain ⟨hM, _⟩ := h
  rw [State.needModulus, State.needModulus, hM]

theorem SameClasses.needFree_eq : s.needFree ms = s'.needFree ms := by
  obtain ⟨hM, _⟩ := h
  rw [State.needFree, State.needFree, hM]

theorem SameClasses.readModulus_eq : s.readModulus ms = s'.readModulus ms := by
  obtain ⟨hM, _⟩ := h
  rw [State.readModulus, State.readModulus, hM]

theorem SameClasses.din4_eq : s.din4 = s'.din4 := by
  obtain ⟨_, _, _, _, _, _, hdin, _⟩ := h
  rw [State.din4, State.din4, hdin]

theorem SameClasses.din8_eq : s.din8 = s'.din8 := by
  obtain ⟨_, _, _, _, _, _, hdin, _⟩ := h
  rw [State.din8, State.din8, hdin]

theorem SameClasses.readReg : SameResult (fun z z' => sameClass s.M (some z) (some z')) (s.readReg rd) (s'.readReg rd) := by
  obtain ⟨_, hR, _⟩ := h
  have hrel := forall₂_getElem? hR rd.toNat
  unfold State.readReg
  generalize s.R[rd.toNat]? = o at hrel ⊢
  generalize s'.R[rd.toNat]? = o' at hrel ⊢
  rcases hrel with @⟨_ | z, _ | z', hclass⟩ | _
  · exact .error _
  · exact hclass.elim
  · exact hclass.elim
  · exact .ok hclass
  · exact .error _

theorem SameClasses.readBase : SameResult (fun b b' => sameTables s.M (some b) (some b')) (s.readBase es) (s'.readBase es) := by
  obtain ⟨_, _, hE, _⟩ := h
  have hrel := forall₂_getElem? hE es.toNat
  unfold State.readBase
  generalize s.E[es.toNat]? = o at hrel ⊢
  generalize s'.E[es.toNat]? = o' at hrel ⊢
  rcases hrel with @⟨_ | b, _ | b', hclass⟩ | _
  · exact .error _
  · exact hclass.elim
  · exact hclass.elim
  · exact .ok hclass
  · exact .error _

/-- An index check in front: the banks have the same sizes. -/
theorem sameResult_needReg {f f' : Unit → Except ErrCode β} (hf : ∀ a, SameResult Q (f a) (f' a)) :
    SameResult Q (s.needReg rd >>= f) (s'.needReg rd >>= f') :=
  sameResult_bind_of_eq (SameClasses.needReg_eq h) fun a _ => hf a

theorem sameResult_needBase {f f' : Unit → Except ErrCode β} (hf : ∀ a, SameResult Q (f a) (f' a)) :
    SameResult Q (s.needBase es >>= f) (s'.needBase es >>= f') :=
  sameResult_bind_of_eq (SameClasses.needBase_eq h) fun a _ => hf a

theorem sameResult_needModulus {f f' : Unit → Except ErrCode β} (hf : ∀ a, SameResult Q (f a) (f' a)) :
    SameResult Q (s.needModulus ms >>= f) (s'.needModulus ms >>= f') :=
  sameResult_bind_of_eq (SameClasses.needModulus_eq h) fun a _ => hf a

theorem sameResult_readModulus {f f' : Modulus → Except ErrCode β}
    (hf : ∀ slot, s.modulusIs ms slot → SameResult Q (f slot) (f' slot)) :
    SameResult Q (s.readModulus ms >>= f) (s'.readModulus ms >>= f') :=
  sameResult_bind_of_eq (SameClasses.readModulus_eq h) fun slot hslot => hf slot (readModulus_eq_ok.mp hslot)

/-- The read of the slot that a register's tag names. -/
theorem sameResult_readTag (hmoduli : s.ModuliValid) {z z' : Residue} (hz : sameClass s.M (some z) (some z'))
    {f f' : Modulus → Except ErrCode β} (hf : ∀ slot, SameOperand s slot z z' → SameResult Q (f slot) (f' slot)) :
    SameResult Q (s.readModulus z.tag >>= f) (s'.readModulus z'.tag >>= f') := by
  obtain ⟨htag, hclass⟩ := hz
  rw [← htag]
  exact sameResult_readModulus h fun slot hslot =>
    hf slot ⟨hslot, hmoduli _ (List.mem_of_getElem? hslot) slot rfl, htag, residueClass_eq_iff.mpr (hclass slot hslot)⟩

/-- A command on one residue. -/
theorem sameResult_unary (hmoduli : s.ModuliValid) {f f' : Residue → Modulus → Except ErrCode β}
    (hf : ∀ z z' slot, SameOperand s slot z z' → SameResult Q (f z slot) (f' z' slot)) :
    SameResult Q
      (do s.needReg rd
          let z ← s.readReg rd
          let slot ← s.readModulus z.tag
          f z slot)
      (do s'.needReg rd
          let z ← s'.readReg rd
          let slot ← s'.readModulus z.tag
          f' z slot) :=
  sameResult_needReg h fun _ => sameResult_bind (SameClasses.readReg h) fun z z' hz =>
    sameResult_readTag h hmoduli hz fun slot hslot => hf z z' slot hslot

/-- A command on two residues. -/
theorem sameResult_binary (hmoduli : s.ModuliValid)
    {f f' : Residue → Residue → Modulus → Modulus → Except ErrCode β}
    (hf : ∀ z z' x x' mz mx, SameOperand s mz z z' → SameOperand s mx x x' →
      SameResult Q (f z x mz mx) (f' z' x' mz mx)) :
    SameResult Q
      (do s.needReg rd
          s.needReg rs
          let z ← s.readReg rd
          let x ← s.readReg rs
          let mz ← s.readModulus z.tag
          let mx ← s.readModulus x.tag
          f z x mz mx)
      (do s'.needReg rd
          s'.needReg rs
          let z ← s'.readReg rd
          let x ← s'.readReg rs
          let mz ← s'.readModulus z.tag
          let mx ← s'.readModulus x.tag
          f' z x mz mx) :=
  sameResult_needReg h fun _ => sameResult_needReg h fun _ =>
    sameResult_bind (SameClasses.readReg h) fun z z' hz => sameResult_bind (SameClasses.readReg h) fun x x' hx =>
      sameResult_readTag h hmoduli hz fun mz hmz => sameResult_readTag h hmoduli hx fun mx hmx =>
        hf z z' x x' mz mx hmz hmx

/-- Both runs write a register back under its tag, with values of one class. -/
theorem SameOperand.setReg {z z' : Residue} (hz : SameOperand s slot z z') {r r' : W256}
    (hr : residueClass slot r = residueClass slot r') :
    (s.setReg rd { z with r := r }).SameClasses (s'.setReg rd { z' with r := r' }) :=
  SameClasses.setReg h (sameClass_some (x := { z with r := r }) hz.slot_is hz.tag_eq hr)

/-! ### The commands -/

/-- A command on one residue that writes back a function of it which respects classes, and drives data that depends on its class
only. -/
theorem unary_sameAnswer (hmoduli : s.ModuliValid) (g : Modulus → W256 → W256) (d : Modulus → W256 → W320)
    (hg : ∀ {slot : Modulus} {a a' : W256}, slot.Valid → residueClass slot a = residueClass slot a' →
      residueClass slot (g slot a) = residueClass slot (g slot a'))
    (hd : ∀ {slot : Modulus} {a a' : W256}, slot.Valid → residueClass slot a = residueClass slot a' →
      d slot a = d slot a') :
    SameAnswer
      (s.finish do
        s.needReg rd
        let z ← s.readReg rd
        let slot ← s.readModulus z.tag
        return { state := s.setReg rd { z with r := g slot z.r }, dout := d slot z.r })
      (s'.finish do
        s'.needReg rd
        let z ← s'.readReg rd
        let slot ← s'.readModulus z.tag
        return { state := s'.setReg rd { z with r := g slot z.r }, dout := d slot z.r }) := by
  refine finish_sameAnswer h (sameResult_unary h hmoduli fun z z' slot hz => ?_)
  rw [← hd hz.valid hz.class_eq]
  exact sameResult_pure (SameOperand.setReg h hz (hg hz.valid hz.class_eq)) _

/-- ADD, SUB, and MUL of two registers. -/
theorem additive_sameAnswer (hmoduli : s.ModuliValid) {g : Modulus → W256 → W256 → W256}
    (hg : ∀ {slot : Modulus} {a a' b b' : W256}, slot.Valid → residueClass slot a = residueClass slot a' →
      residueClass slot b = residueClass slot b' → residueClass slot (g slot a b) = residueClass slot (g slot a' b')) :
    SameAnswer
      (s.finish do
        s.needReg rd
        s.needReg rs
        let z ← s.readReg rd
        let x ← s.readReg rs
        let mz ← s.readModulus z.tag
        let mx ← s.readModulus x.tag
        needCompat z x mz mx
        return { state := s.setReg rd { z with r := g mz z.r x.r }, dout := doutNone })
      (s'.finish do
        s'.needReg rd
        s'.needReg rs
        let z ← s'.readReg rd
        let x ← s'.readReg rs
        let mz ← s'.readModulus z.tag
        let mx ← s'.readModulus x.tag
        needCompat z x mz mx
        return { state := s'.setReg rd { z with r := g mz z.r x.r }, dout := doutNone }) := by
  refine finish_sameAnswer h (sameResult_binary h hmoduli fun z z' x x' mz mx hz hx => ?_)
  have hcheck : needCompat z x mz mx = needCompat z' x' mz mx := by
    rw [needCompat, needCompat, compat, compat, hz.tag_eq, hx.tag_eq]
  refine sameResult_bind_of_eq hcheck fun _ hcompat => ?_
  have hm : mz.m = mx.m := by
    obtain htag | hm := needCompat_eq_ok.mp hcompat
    · rw [modulusIs_unique hz.slot_is (htag ▸ hx.slot_is)]
    · exact hm
  exact sameResult_pure (SameOperand.setReg h hz (hg hz.valid hz.class_eq (SameOperand.class_eq_of_m_eq hx hm))) _

/-- EQ and NEQ: the modulus words are the same in both runs, and so are the canonical forms (R180, R181). -/
theorem compareRegs_sameAnswer (hmoduli : s.ModuliValid) (answer : Bool → Bool) :
    SameAnswer (compareRegs rd rs answer s) (compareRegs rd rs answer s') := by
  refine finish_sameAnswer h (sameResult_binary h hmoduli fun z z' x x' mz mx hz hx => ?_)
  split
  · exact sameResult_pure (SameClasses.setFlag h _) _
  · have hcanonz := reduce4_eq_of_class hz.valid hz.class_eq
    have hcanonx := reduce4_eq_of_class hx.valid hx.class_eq
    rw [hcanonz, hcanonx]
    have hfirst := SameOperand.setReg (rd := rd) h hz (r := reduce4 mz z'.r) rfl
    have hsecond := sameClass_some (s := s) (x := { x with r := reduce4 mx x'.r }) hx.slot_is hx.tag_eq
      (x' := { x' with r := reduce4 mx x'.r }) rfl
    exact sameResult_pure (SameClasses.setFlag (SameClasses.setReg hfirst hsecond) _) _

/-- MUL, by both of its paths: which of them is taken depends on the command alone (R142, R144). -/
theorem execMul_sameAnswer (hmoduli : s.ModuliValid) : SameAnswer (execMul rd rs s) (execMul rd rs s') := by
  by_cases heq : rd = rs
  · subst heq
    rw [execMul_self, execMul_self]
    exact unary_sameAnswer h hmoduli sqrmod (fun _ _ => doutNone) sqrmod_respects fun _ _ => rfl
  · simp only [execMul, if_neg heq]
    exact additive_sameAnswer h hmoduli mulmod_respects

/-- MODGET, MUGET, MMU0GET, MMU1GET: both runs read the same slot (R97 to R100). -/
theorem readOut_sameAnswer (field : Modulus → W320) : SameAnswer (readOut ms field s) (readOut ms field s') :=
  finish_sameAnswer h <| sameResult_needModulus h fun _ => sameResult_readModulus h fun slot _ =>
    sameResult_pure h (field slot)

/-- RSET and RED8: both runs write the same words (R117, R187). -/
theorem loadReg_sameAnswer (g : Modulus → W256) :
    SameAnswer
      (s.finish do
        s.needReg rd
        s.needModulus ms
        let slot ← s.readModulus ms
        return { state := s.setReg rd { tag := ms, r := g slot }, dout := doutNone })
      (s'.finish do
        s'.needReg rd
        s'.needModulus ms
        let slot ← s'.readModulus ms
        return { state := s'.setReg rd { tag := ms, r := g slot }, dout := doutNone }) :=
  finish_sameAnswer h <| sameResult_needReg h fun _ => sameResult_needModulus h fun _ =>
    sameResult_readModulus h fun _ _ => sameResult_pure (SameClasses.setReg h (sameClass_refl s.M _)) _

/-- MODSET: both runs fill the slot alike (R96). -/
theorem execModset_sameAnswer (htags : s.TagsValid) : SameAnswer (execModset ms s) (execModset ms s') := by
  rw [execModset, execModset, ← SameClasses.din4_eq h]
  exact finish_sameAnswer h <| sameResult_needModulus h fun _ =>
    sameResult_bind_of_eq (SameClasses.needFree_eq h) fun _ hfree => sameResult_bind_of_eq rfl fun _ _ =>
      sameResult_pure (SameClasses.setModulus h htags (needFree_eq_ok.mp hfree)) _

/-- RCOPY: the copies are of one class as their sources are (R189). -/
theorem execRcopy_sameAnswer : SameAnswer (execRcopy rd rs s) (execRcopy rd rs s') :=
  finish_sameAnswer h <| sameResult_needReg h fun _ => sameResult_needReg h fun _ =>
    sameResult_bind (SameClasses.readReg h) fun _ _ hx => sameResult_pure (SameClasses.setReg h hx) _

/-- INV: the value and its success depend on the class (R155). -/
theorem execInv_sameAnswer (hmoduli : s.ModuliValid) : SameAnswer (execInv rd s) (execInv rd s') := by
  refine finish_sameAnswer h (sameResult_unary h hmoduli fun z z' slot hz => ?_)
  have hwritten := SameOperand.setReg (rd := rd) h hz (inv256_value_respects hz.valid hz.class_eq)
  dsimp only
  rw [inv256_success_respects hz.valid hz.class_eq]
  exact sameResult_pure (SameClasses.setFlag hwritten _) _

/-- EXPB: the tables hold the classes of powers of the operand (R166). -/
theorem execExpb_sameAnswer (hmoduli : s.ModuliValid) : SameAnswer (execExpb es rs s) (execExpb es rs s') := by
  refine finish_sameAnswer h <| sameResult_needBase h fun _ => sameResult_unary h hmoduli fun x x' slot hx => ?_
  refine sameResult_pure (SameClasses.setBase h ⟨hx.tag_eq, fun slot' hslot' j => ?_⟩) _
  rw [modulusIs_unique hslot' hx.slot_is]
  obtain ⟨hl, hh⟩ := newBase_respects hx.valid hx.class_eq
  exact ⟨residueClass_eq_iff.mp (hl j), residueClass_eq_iff.mp (hh j)⟩

/-- EXPP: the scan reads classes of the tables (R168). -/
theorem execExpp_sameAnswer (hmoduli : s.ModuliValid) : SameAnswer (execExpp rd es s) (execExpp rd es s') := by
  rw [execExpp, execExpp, ← SameClasses.din4_eq h]
  refine finish_sameAnswer h <| sameResult_needReg h fun _ => sameResult_needBase h fun _ =>
    sameResult_bind (SameClasses.readBase h) fun b b' hb => ?_
  obtain ⟨htag, htables⟩ := hb
  rw [← htag]
  refine sameResult_readModulus h fun slot hslot => sameResult_pure (SameClasses.setReg h ?_) _
  have hvalid : slot.Valid := hmoduli _ (List.mem_of_getElem? hslot) slot rfl
  have hl : SameTable slot b.l b'.l := fun j => residueClass_eq_iff.mpr (htables slot hslot j).1
  have hh : SameTable slot b.h b'.h := fun j => residueClass_eq_iff.mpr (htables slot hslot j).2
  exact sameClass_some hslot rfl (expp256_respects hvalid hl hh s.din4)

/-- Every command answers alike in two states that hold the same classes (R192). -/
theorem exec_sameAnswer (hmoduli : s.ModuliValid) (htags : s.TagsValid) (i : Instr) : SameAnswer (exec i s) (exec i s') := by
  cases i with
  | nop => exact finish_sameAnswer h (sameResult_pure h doutNone)
  | clrerr => exact finish_sameAnswer h (sameResult_pure (SameClasses.clearErr h) doutNone)
  | modset ms => exact execModset_sameAnswer h htags
  | modget ms => exact readOut_sameAnswer h fun slot => dout256 slot.m
  | muget ms => exact readOut_sameAnswer h fun slot => slot.mu
  | mmu0get ms => exact readOut_sameAnswer h fun slot => dout256 slot.mmu0
  | mmu1get ms => exact readOut_sameAnswer h fun slot => dout256 slot.mmu1
  | rset rd ms =>
    rw [exec, exec, execRset, execRset, ← SameClasses.din4_eq h]
    exact loadReg_sameAnswer h fun _ => s.din4
  | rget rd =>
    exact unary_sameAnswer h hmoduli reduce4 (fun slot r => dout256 (reduce4 slot r)) reduce4_respects fun hslot ha =>
      congrArg dout256 (reduce4_eq_of_class hslot ha)
  | rcopy rd rs => exact execRcopy_sameAnswer h
  | red4 rd => exact unary_sameAnswer h hmoduli reduce4 (fun _ _ => doutNone) reduce4_respects fun _ _ => rfl
  | red8 rd ms =>
    rw [exec, exec, execRed8, execRed8, ← SameClasses.din8_eq h]
    exact loadReg_sameAnswer h fun slot => reduce8 slot s.din8
  | add rd rs => exact additive_sameAnswer h hmoduli add256_respects
  | sub rd rs => exact additive_sameAnswer h hmoduli sub256_respects
  | neg rd => exact unary_sameAnswer h hmoduli neg256 (fun _ _ => doutNone) neg256_respects fun _ _ => rfl
  | dbl rd =>
    exact unary_sameAnswer h hmoduli (fun slot r => add256 slot r r) (fun _ _ => doutNone)
      (fun hslot ha => add256_respects hslot ha ha) fun _ _ => rfl
  | mul rd rs => exact execMul_sameAnswer h hmoduli
  | sqr rd => exact unary_sameAnswer h hmoduli sqrmod (fun _ _ => doutNone) sqrmod_respects fun _ _ => rfl
  | eq rd rs => exact compareRegs_sameAnswer h hmoduli id
  | neq rd rs => exact compareRegs_sameAnswer h hmoduli neqFlag
  | inv rd => exact execInv_sameAnswer h hmoduli
  | exp rd =>
    rw [exec, exec, execExp, execExp, ← SameClasses.din4_eq h]
    exact unary_sameAnswer h hmoduli (fun slot r => exp256 slot r s.din4) (fun _ _ => doutNone)
      (fun hslot ha => exp256_respects hslot ha s.din4) fun _ _ => rfl
  | expb es rs => exact execExpb_sameAnswer h hmoduli
  | expp rd es => exact execExpp_sameAnswer h hmoduli

end Reads

end Runs

/-- Settles O57: the two runs side by side, from the slots and tags that the invariant makes valid. -/
theorem onlyClassesAreObservable : Obligations.OnlyClassesAreObservable := by
  unfold Obligations.OnlyClassesAreObservable
  rintro i s s' t ⟨_, hmoduli, htags, _⟩ _ hsame ht
  exact exec_sameAnswer hsame hmoduli htags i t ht

end Sys2Proof.Proofs
